-- ==== Sys2Proof/Config.lean ====
section
/-! DEFINITION. What an instance of the block fixes (R9): the two parameters the spec leaves to the instance, as
constants with no value that a proof could use, and the constants the spec gives a value. -/

namespace Sys2Proof

/-- `FRAME_LEN` (R9): bits per frame. -/
def Config.frameLen : Nat := 60

/-- `MARK_PERIOD` (R9): an index is a marker slot when it is a multiple of this. -/
def Config.markPeriod : Nat := 10

/-- `BIT_TICKS` (R9): ticks per bit. -/
def Config.bitTicks : Nat := 10

/-- `TICK_DIV - 1` of the instance that `State.reset` describes (R9: an argument, at least 1, never fixed; log 5). -/
opaque Config.tickDivPred : Nat

/-- `RETRY_ON_IOERR` of the instance that `State.reset` describes (R9, decision D14: left open; log 5). -/
opaque Config.retryOnIoErr : Bool

/-- The parameters of an instance (R9). No step changes them (R35). `TICK_DIV` is held less 1, so that it is at least 1. -/
structure Params where
  tickDivPred  : Nat
  retryOnIoErr : Bool
  deriving DecidableEq, Repr

/-- `TICK_DIV` (R9): clock cycles per tick, at least 1. -/
def Params.tickDiv (p : Params) : Nat := p.tickDivPred + 1

/-- The bit duration in clock cycles, `10 * TICK_DIV` (R10). -/
def Params.bitCycles (p : Params) : Nat := Config.bitTicks * p.tickDiv

/-- `CYC_W` (R9): the width of the phase counter, `ceil(log2(8 * TICK_DIV))`. -/
def Params.cycWidth (p : Params) : Nat := Nat.clog 2 (8 * p.tickDiv)

end Sys2Proof
end

