-- ==== Sys2Proof/Word.lean ====
section
/-! DEFINITION. The bit vectors of the block: the 60-bit frame and the 6-bit index of a frame bit. -/

namespace Sys2Proof

/-- A frame of 60 bits (R21, R56): bit `i` of the vector is element `i` of the sequence, the mapping of `frame_o` (R40). -/
abbrev Frame := BitVec 60

/-- The 6-bit index of a frame bit: the type of `bit_idx` (R23) and of `err_bit` (R26). -/
abbrev BitIdx := BitVec 6

end Sys2Proof
end

