-- ==== Sys2Proof/Syntax.lean ====
section
/-! DEFINITION. The operations of the block as syntax: one constructor of `Instr` per row of `opcode_table.json`
(R72), the places at which their words stand (R53), and operation words. -/

namespace Sys2Proof

/-- The four members of a time sample record, at their port widths (R15, R63). -/
structure Sample where
  sec  : BitVec 6
  min  : BitVec 6
  hour : BitVec 5
  doy  : BitVec 9
  deriving DecidableEq, Repr

/-- A decimal digit (R54): 0 to 9 and nothing else, since nibbles 10 to 15 are never produced (R65). -/
abbrev Digit := Fin 10

/-- The operations named by R72, one constructor per row of `opcode_table.json`, with the operands the row gives. -/
inductive Instr where
  /-- `ENCODE` (R73): `bcd_encode(value, width)`. -/
  | encode (value width : Nat)
  /-- `BUILD` (R85), with the 26-bit sample record as operand (R63). -/
  | build (sample : Sample)
  /-- `RENDER` (R98) of a frame. -/
  | render (f : Frame)
  /-- `SYM` (R101): the symbol of index `i` of a frame. -/
  | sym (f : Frame) (i : Fin 60)
  /-- `FRAME` (R56, R94): a frame by the contents of its fields; bit `j` of a field is its element `j`, the one at the
  field's lowest index plus `j`. -/
  | frame (sec min hour : BitVec 8) (doy : BitVec 17)
  /-- `FIELD.SEC` (R89) by its two digits. -/
  | fieldSec (tens units : Digit)
  /-- `FIELD.MIN` (R90) by its two digits. -/
  | fieldMin (tens units : Digit)
  /-- `FIELD.HOUR` (R91) by its two digits. -/
  | fieldHour (tens units : Digit)
  /-- `FIELD.DOY` (R92): the weight-1 bit of the ten-thousands digit and the four lower digits (R55). -/
  | fieldDoy (tenThousands : Bool) (thousands hundreds tens units : Digit)
  /-- `DIGIT.0` (R54). -/
  | digit0
  /-- `DIGIT.1` (R54). -/
  | digit1
  /-- `DIGIT.2` (R54). -/
  | digit2
  /-- `DIGIT.3` (R54). -/
  | digit3
  /-- `DIGIT.4` (R54). -/
  | digit4
  /-- `DIGIT.5` (R54). -/
  | digit5
  /-- `DIGIT.6` (R54). -/
  | digit6
  /-- `DIGIT.7` (R54). -/
  | digit7
  /-- `DIGIT.8` (R54). -/
  | digit8
  /-- `DIGIT.9` (R54). -/
  | digit9
  /-- `SYM.MARK` (R102): the stored bit is ignored (R58). -/
  | symMark (stored : Bool)
  /-- `SYM.ONE` (R103). -/
  | symOne
  /-- `SYM.ZERO` (R104). -/
  | symZero
  /-- `CMD.NOP` (R59): `start_i = 0`, `stop_i = 0`. -/
  | cmdNop
  /-- `CMD.START` (R59): `start_i = 1`, `stop_i = 0`. -/
  | cmdStart
  /-- `CMD.STOP` (R59): `stop_i = 1`, with `start_i` either way. -/
  | cmdStop (start : Bool)
  /-- `SINK.NONE` (R60). -/
  | sinkNone
  /-- `SINK.CONFIGURE` (R60). -/
  | sinkConfigure
  /-- `SINK.SET` (R60): the level is `line_o`, no operand of the word. -/
  | sinkSet
  /-- `SINK.RELEASE` (R60). -/
  | sinkRelease
  /-- `ST.IDLE` (R61). -/
  | stIdle
  /-- `ST.CONFIG` (R61). -/
  | stConfig
  /-- `ST.HIGH` (R61). -/
  | stHigh
  /-- `ST.LOW` (R61). -/
  | stLow
  /-- `ST.ABORT` (R61). -/
  | stAbort
  /-- `ST.REL` (R61). -/
  | stRel
  /-- `ERR.NONE` (R62). -/
  | errNone
  /-- `ERR.ENCODING` (R62): reserved, never raised (R141). -/
  | errEncoding
  /-- `ERR.IO_CONFIG` (R62, R145). -/
  | errIoConfig
  /-- `ERR.TRANSMIT` (R62, R146). -/
  | errTransmit
  /-- `ERR.INVARIANT` (R62): reserved, cannot occur (R142). -/
  | errInvariant
  deriving DecidableEq, Repr

/-- Where a word stands. The words of different formats share their bits (`00` is `CMD.NOP`, `SYM.ZERO` and
`SINK.NONE`), and no bit of a word says which format it has (R53, R68): only its place does (log 3). -/
inductive Place where
  | encode | build | render | sym | frame
  | fieldSec | fieldMin | fieldHour | fieldDoy
  | digit | symsel | cmd | sinkop | st | err
  deriving DecidableEq, Repr

/-- An operation word: its place, and its operand words. A row with an encoding has one operand word, its bits as the
table numbers them; `ENCODE` and `SYM`, which have no bits in the table, have one word per operand (log 3). -/
structure OpWord where
  place : Place
  args  : List Nat
  deriving DecidableEq, Repr

end Sys2Proof
end

