-- ==== Sys2Proof/WellFormed.lean ====
section
/-! DEFINITION. The instructions the spec gives operands to: the one check the operand types do not make already. -/

namespace Sys2Proof

/-- `ENCODE` takes a positive width (R73). Every other bound is in the type of the operand: a digit is at most 9 (R54), an
index of a frame at most 59 (R101), a port value has its port's width (R15). -/
def Instr.wf : Instr → Bool
  | .encode _ width => decide (0 < width)
  | .build _ | .render _ | .sym _ _ | .frame _ _ _ _ => true
  | .fieldSec _ _ | .fieldMin _ _ | .fieldHour _ _ | .fieldDoy _ _ _ _ _ => true
  | .digit0 | .digit1 | .digit2 | .digit3 | .digit4 | .digit5 | .digit6 | .digit7 | .digit8 | .digit9 => true
  | .symMark _ | .symOne | .symZero => true
  | .cmdNop | .cmdStart | .cmdStop _ => true
  | .sinkNone | .sinkConfigure | .sinkSet | .sinkRelease => true
  | .stIdle | .stConfig | .stHigh | .stLow | .stAbort | .stRel => true
  | .errNone | .errEncoding | .errIoConfig | .errTransmit | .errInvariant => true

end Sys2Proof
end

