-- ==== Sys2Proof/Decode.lean ====
section
/-! DEFINITION. The decoder, total on every operation word and rejecting by name, and after it the encoder. -/

namespace Sys2Proof

/-- Why a word is no word of its place. -/
inductive DecodeError where
  /-- The place takes another number of operand words. -/
  | operandCount
  /-- The bits exceed the width the table gives the row. -/
  | tooWide
  /-- A nibble of 10 to 15 where a decimal digit stands (R65). -/
  | notADigit
  /-- Codes 6 and 7 of `ST` (R68). -/
  | unusedStateCode
  /-- Codes 5, 6 and 7 of `ERR` (R68). -/
  | unusedErrorCode
  /-- A constant bit of the frame layout has the other value (R56, R97). -/
  | frameConstantBits
  /-- `ENCODE` with `width = 0`, outside the function's domain (R73). -/
  | encodeWidthZero
  /-- `SYM` with an index that is no index of a frame (R101). -/
  | noSuchIndex
  deriving DecidableEq, Repr

/-- The digit a nibble holds, if it holds one (R54, R65). -/
def digitOf (n : Nat) : Option Digit := if h : n < 10 then some ⟨n, h⟩ else none

/-- `DIGIT` (R54). -/
def decodeDigit : Nat → Except DecodeError Instr
  | 0 => .ok .digit0 | 1 => .ok .digit1 | 2 => .ok .digit2 | 3 => .ok .digit3 | 4 => .ok .digit4
  | 5 => .ok .digit5 | 6 => .ok .digit6 | 7 => .ok .digit7 | 8 => .ok .digit8 | 9 => .ok .digit9
  | n => .error (if n < 16 then .notADigit else .tooWide)

/-- `SYMSEL` (R58): the pair (`is_marker`, `b`), `is_marker` first. -/
def decodeSymsel : Nat → Except DecodeError Instr
  | 0 => .ok .symZero | 1 => .ok .symOne | 2 => .ok (.symMark false) | 3 => .ok (.symMark true)
  | _ => .error .tooWide

/-- `CMD` (R59): the pair (`start_i`, `stop_i`), `start_i` first. -/
def decodeCmd : Nat → Except DecodeError Instr
  | 0 => .ok .cmdNop | 1 => .ok (.cmdStop false) | 2 => .ok .cmdStart | 3 => .ok (.cmdStop true)
  | _ => .error .tooWide

/-- `SINKOP` (R60). -/
def decodeSinkop : Nat → Except DecodeError Instr
  | 0 => .ok .sinkNone | 1 => .ok .sinkConfigure | 2 => .ok .sinkSet | 3 => .ok .sinkRelease
  | _ => .error .tooWide

/-- `ST` (R61, R68). -/
def decodeSt : Nat → Except DecodeError Instr
  | 0 => .ok .stIdle | 1 => .ok .stConfig | 2 => .ok .stHigh | 3 => .ok .stLow | 4 => .ok .stAbort | 5 => .ok .stRel
  | n => .error (if n < 8 then .unusedStateCode else .tooWide)

/-- `ERR` (R62, R68). -/
def decodeErr : Nat → Except DecodeError Instr
  | 0 => .ok .errNone | 1 => .ok .errEncoding | 2 => .ok .errIoConfig | 3 => .ok .errTransmit | 4 => .ok .errInvariant
  | n => .error (if n < 8 then .unusedErrorCode else .tooWide)

/-- `FIELD(8)` (R55): the tens digit in the high nibble (element 0 is the leftmost bit), the units digit in the low one. -/
def decodeField8 (k : Digit → Digit → Instr) (n : Nat) : Except DecodeError Instr :=
  if n < 2 ^ 8 then
    match digitOf (n / 16), digitOf (n % 16) with
    | some t, some u => .ok (k t u)
    | _, _ => .error .notADigit
  else .error .tooWide

/-- `FIELD(17)` (R55): element 0, the weight-1 bit of the ten-thousands digit, leftmost, then four nibbles. -/
def decodeField17 (n : Nat) : Except DecodeError Instr :=
  if n < 2 ^ 17 then
    match digitOf (n / 2 ^ 12 % 16), digitOf (n / 2 ^ 8 % 16), digitOf (n / 2 ^ 4 % 16), digitOf (n % 16) with
    | some k, some h, some t, some u => .ok (.fieldDoy (n.testBit 16) k h t u)
    | _, _, _, _ => .error .notADigit
  else .error .tooWide

/-- `SAMPLE` (R63): seconds in bits 25 to 20, minutes in 19 to 14, hours in 13 to 9, day of year in 8 to 0. -/
def decodeSample (n : Nat) : Except DecodeError Instr :=
  if n < 2 ^ 26 then
    .ok (.build { sec := BitVec.ofNat 6 (n / 2 ^ 20), min := BitVec.ofNat 6 (n / 2 ^ 14),
                  hour := BitVec.ofNat 5 (n / 2 ^ 9), doy := BitVec.ofNat 9 n })
  else .error .tooWide

/-- The positions of `frame_o` that the layout holds constant: 0, 9, 18, 19, 28, 29, 47 to 59 (R56, R97). -/
def frameConstMask : Frame := 0xfff8000300c0201#60

/-- The values at those positions: 1 at 0 and 50, 0 at the others (R56, R97). -/
def frameConstBits : Frame := 0x4000000000001#60

/-- `FRAME` (R56): bit `i` of the word is frame index `i` (R40). The day-of-year field stands at 30 to 39 and 40 to 46. -/
def decodeFrame (n : Nat) : Except DecodeError Instr :=
  if n < 2 ^ 60 then
    let f := BitVec.ofNat 60 n
    if f &&& frameConstMask = frameConstBits then
      .ok (.frame (f.extractLsb' 1 8) (f.extractLsb' 10 8) (f.extractLsb' 20 8) (f.extractLsb' 30 17))
    else .error .frameConstantBits
  else .error .tooWide

/-- The instruction a word is, or why it is none. -/
def decode (w : OpWord) : Except DecodeError Instr :=
  match w.place, w.args with
  | .encode, [value, width] => if width = 0 then .error .encodeWidthZero else .ok (.encode value width)
  | .build, [n] => decodeSample n
  | .render, [n] => if n < 2 ^ 60 then .ok (.render (BitVec.ofNat 60 n)) else .error .tooWide
  | .sym, [n, i] =>
    if n < 2 ^ 60 then
      if h : i < 60 then .ok (.sym (BitVec.ofNat 60 n) ⟨i, h⟩) else .error .noSuchIndex
    else .error .tooWide
  | .frame, [n] => decodeFrame n
  | .fieldSec, [n] => decodeField8 .fieldSec n
  | .fieldMin, [n] => decodeField8 .fieldMin n
  | .fieldHour, [n] => decodeField8 .fieldHour n
  | .fieldDoy, [n] => decodeField17 n
  | .digit, [n] => decodeDigit n
  | .symsel, [n] => decodeSymsel n
  | .cmd, [n] => decodeCmd n
  | .sinkop, [n] => decodeSinkop n
  | .st, [n] => decodeSt n
  | .err, [n] => decodeErr n
  | _, _ => .error .operandCount

/-- The word an instruction of a table with an encoding is (R72). -/
def word (p : Place) (n : Nat) : OpWord := { place := p, args := [n] }

/-- `FIELD(8)` as a number, element 0 its most significant bit (R55). -/
def field8Bits (tens units : Digit) : Nat := tens.val * 16 + units.val

/-- `FIELD(17)` as a number, element 0 its most significant bit (R55). -/
def field17Bits (p : Bool) (k h t u : Digit) : Nat :=
  p.toNat * 2 ^ 16 + k.val * 2 ^ 12 + h.val * 2 ^ 8 + t.val * 2 ^ 4 + u.val

/-- `SAMPLE` as one 26-bit number (R63). -/
def sampleBits (s : Sample) : Nat := s.sec.toNat * 2 ^ 20 + s.min.toNat * 2 ^ 14 + s.hour.toNat * 2 ^ 9 + s.doy.toNat

/-- The layout of R56 with its fields filled in: seconds from index 1, minutes from 10, hours from 20, day of year from 30
(its 17 bits fill 30 to 46), 1 at 0 and 50. -/
def frameBits (sec min hour : BitVec 8) (doy : BitVec 17) : Frame :=
  frameConstBits ||| (sec.setWidth 60 <<< 1) ||| (min.setWidth 60 <<< 10) ||| (hour.setWidth 60 <<< 20) |||
    (doy.setWidth 60 <<< 30)

/-- The word of an instruction, from the encodings of the spec (R54 to R63, R72). -/
def encode : Instr → OpWord
  | .encode value width => { place := .encode, args := [value, width] }
  | .build s => word .build (sampleBits s)
  | .render f => word .render f.toNat
  | .sym f i => { place := .sym, args := [f.toNat, i.val] }
  | .frame sec min hour doy => word .frame (frameBits sec min hour doy).toNat
  | .fieldSec t u => word .fieldSec (field8Bits t u)
  | .fieldMin t u => word .fieldMin (field8Bits t u)
  | .fieldHour t u => word .fieldHour (field8Bits t u)
  | .fieldDoy p k h t u => word .fieldDoy (field17Bits p k h t u)
  | .digit0 => word .digit 0 | .digit1 => word .digit 1 | .digit2 => word .digit 2 | .digit3 => word .digit 3
  | .digit4 => word .digit 4 | .digit5 => word .digit 5 | .digit6 => word .digit 6 | .digit7 => word .digit 7
  | .digit8 => word .digit 8 | .digit9 => word .digit 9
  | .symZero => word .symsel 0 | .symOne => word .symsel 1 | .symMark b => word .symsel (2 + b.toNat)
  | .cmdNop => word .cmd 0 | .cmdStart => word .cmd 2 | .cmdStop start => word .cmd (start.toNat * 2 + 1)
  | .sinkNone => word .sinkop 0 | .sinkConfigure => word .sinkop 1 | .sinkSet => word .sinkop 2 | .sinkRelease => word .sinkop 3
  | .stIdle => word .st 0 | .stConfig => word .st 1 | .stHigh => word .st 2
  | .stLow => word .st 3 | .stAbort => word .st 4 | .stRel => word .st 5
  | .errNone => word .err 0 | .errEncoding => word .err 1 | .errIoConfig => word .err 2
  | .errTransmit => word .err 3 | .errInvariant => word .err 4

/-- The bits the table gives the words of a place (R53 to R63); the operands of `ENCODE` have no width (R11, R73). -/
def Place.width : Place → Option Nat
  | .encode => none
  | .build => some 26
  | .render | .sym | .frame => some 60
  | .fieldSec | .fieldMin | .fieldHour => some 8
  | .fieldDoy => some 17
  | .digit => some 4
  | .symsel | .cmd | .sinkop => some 2
  | .st | .err => some 3

/-- Every operand word is within its place's width. -/
def OpWord.fits (w : OpWord) : Bool :=
  match w.place.width with
  | none => true
  | some k => w.args.all fun n => decide (n < 2 ^ k)

/-- The place that a bare number of the table is read at. The table numbers 33 rows of at most 8 bits with the same few
words, so a number and a width name a row only by a choice (log 6): a command where the number is one (R68: `CMD` is what
the block decodes from its inputs), else a state code, else a digit, else a seconds field; a width of 3 or 4 bits, where
it is given so, names the format itself. -/
def tableWord (nbits w : Nat) : OpWord :=
  if nbits = 0 then { place := .sym, args := [w, 0] }
  else if nbits = 3 then word .st w
  else if nbits = 4 then word .digit w
  else if nbits ≤ 8 then
    if w < 4 then word .cmd w else if w < 6 then word .st w else if w < 10 then word .digit w else word .fieldSec w
  else if nbits ≤ 24 then word .fieldDoy w
  else if nbits ≤ 32 then word .build w
  else if w.land frameConstMask.toNat = frameConstBits.toNat then word .frame w
  else word .render w

/-- The instruction that the decoder reads from a word numbered as `opcode_table.json` numbers it (log 6). -/
def decodeTableWord (nbits w : Nat) : Option Instr := (decode (tableWord nbits w)).toOption

end Sys2Proof
end

