-- ==== Sys2Proof/Machine/State.lean ====
section
/-! DEFINITION. The state of the block (R19), what the environment presents to it (R171), the model's own fields, and
reset (R166). -/

namespace Sys2Proof.Machine

/-- The six states of the control machine (R22). Codes 6 and 7 are not used (R68). -/
inductive St where
  | idle | config | high | low | abort | rel
  deriving DecidableEq, Repr

/-- The error codes (R62, R139). `encoding` and `invariant` are reserved names that no step writes (R141, R142). -/
inductive ErrCode where
  | none | encoding | ioConfig | transmit | invariant
  deriving DecidableEq, Repr

/-- The operations on the digital output sink (R16, R60). -/
inductive SinkOp where
  | none | configure | set | release
  deriving DecidableEq, Repr

/-- The three pulse shapes (R57). There is no fourth. -/
inductive Symbol where
  | mark | one | zero
  deriving DecidableEq, Repr

/-- The nine registers of the block, the spec's state `S` (R19). -/
structure Regs where
  st      : St
  /-- R21. -/
  frame   : Frame
  /-- R23. -/
  bitIdx  : BitIdx
  /-- R24. Held as a `Nat`; that it fits `CYC_W` bits in every reachable state is an invariant (R32; log 7). -/
  cyc     : Nat
  /-- R25. -/
  cancel  : Bool
  /-- R26. -/
  err     : Bool
  errCode : ErrCode
  errBit  : BitIdx
  /-- R27. -/
  done    : Bool
  deriving DecidableEq, Repr

/-- The input ports in one clock cycle: the record `I_t` of R171 (R14, R15, R16). -/
structure Inputs where
  rst       : Bool
  start     : Bool
  stop      : Bool
  tsSec     : BitVec 6
  tsMin     : BitVec 6
  tsHour    : BitVec 5
  tsDoy     : BitVec 9
  sinkFault : Bool
  deriving DecidableEq, Repr

/-- An operation the sink was asked for, with the level of `line_o` in that cycle (R16, R46; log 9). -/
structure SinkCall where
  op    : SinkOp
  level : Bool
  deriving DecidableEq, Repr

/-- What the functional layer has delivered to the observer: the latest result of each kind (R8; log 2). -/
structure FuncResults where
  /-- A bit sequence, element 0 first: from `ENCODE` and `DIGIT`. -/
  bits   : List Bool
  /-- The builder's working sequence `f` (R85): from `BUILD`, `FRAME` and `FIELD`. -/
  frame  : Frame
  /-- From `SYM`. -/
  symbol : Option Symbol
  /-- From `RENDER`. -/
  text   : List Char
  deriving DecidableEq, Repr

/-- Everything a step reads and writes. `params`, `ports` and `pending` are the instance and the environment, `calls`,
`func` and `queue` the model's own (logs 2, 3, 4, 5, 9); the block itself is `regs`. -/
structure State where
  params  : Params
  regs    : Regs
  /-- The input ports in the present cycle. -/
  ports   : Inputs
  /-- The input records of the cycles after this one, oldest first. When they run out the ports keep their levels (R71). -/
  pending : List Inputs
  /-- The operations the sink has been asked for, newest first. -/
  calls   : List SinkCall
  func    : FuncResults
  /-- Operation words to be run in the coming steps, oldest first. Empty when the block runs by itself. -/
  queue   : List OpWord
  deriving DecidableEq, Repr

/-- The faults that stop the machine: none. Every error of the block is recorded and the machine goes on (R139, R153,
R179), so no instruction raises a constructor of this type. Safe: there is nothing to raise. -/
inductive Fault where
  deriving DecidableEq, Repr

/-- Why an instruction has no meaning. -/
inductive Refusal where
  /-- Raised by an arm of `exec` whose instruction has no meaning yet: none. Safe. -/
  | notModelled (mnemonic : String)
  /-- Raised by `step` for a queue word that is no word of its place (R65, R68; log 18). Safe: the machine stops. -/
  | undecodable (e : DecodeError)
  /-- Raised by `ENCODE` with `width = 0`, where the function is not defined (R73; log 12). Safe: the machine stops. -/
  | encodeWidthZero
  /-- Raised by `ERR.ENCODING` and `ERR.INVARIANT`, the reserved codes that are never raised (R68, R141, R142; log 11).
  Safe: the machine stops. -/
  | reservedErrorCode (code : ErrCode)
  deriving DecidableEq, Repr

/-- `RESET_STATE` (R166): every register of the block, with the reset value the spec gives it (R167). -/
def Regs.reset : Regs :=
  { st := .idle, frame := 0#60, bitIdx := 0#6, cyc := 0, cancel := false, err := false, errCode := .none,
    errBit := 0#6, done := false }

/-- Every input port at 0, its level before it is first mentioned (R71). -/
def Inputs.zero : Inputs :=
  { rst := false, start := false, stop := false, tsSec := 0#6, tsMin := 0#6, tsHour := 0#5, tsDoy := 0#9,
    sinkFault := false }

/-- The observer's latches before any operation: no sequence, no symbol, no text, and in `frame` what steps 1 and 2 of
`build` leave, ones at 0, 10, 20, 30, 40 and 50 (R86, R87; DESIGN CHOICE, log 2). -/
def FuncResults.initial : FuncResults :=
  { bits := [], frame := 0x4010040100401#60, symbol := .none, text := [] }

/-- The state right after reset (R166), the cycle `S_0` of a run (R13). The parameters are those of the instance (log 5),
the ports are at 0 and nothing is scheduled on them (log 4). -/
def State.reset : State :=
  { params := { tickDivPred := Config.tickDivPred, retryOnIoErr := Config.retryOnIoErr }
    regs := Regs.reset, ports := Inputs.zero, pending := [], calls := [], func := FuncResults.initial, queue := [] }

end Sys2Proof.Machine
end

