-- ==== Sys2Proof/Machine/Operands.lean ====
section
/-! DEFINITION. The functional layer (R8), pure functions: the BCD encoder (41), the frame builder (42), the symbol of a
frame index and the lengths of its phases (43), and the numeric codes of the named values (30). -/

namespace Sys2Proof.Machine

/-! ### The BCD encoder -/

/-- Digit `q` of a value, counted from the units digit (R75). -/
def digit (value q : Nat) : Nat := value / 10 ^ q % 10

/-- The nibble of a digit, most significant bit first (R54, R76). -/
def nibble (d : Nat) : List Bool := [d.testBit 3, d.testBit 2, d.testBit 1, d.testBit 0]

/-- `n = ceil(width / 4)` (R74, R82). -/
def digitCount (width : Nat) : Nat := (width + 3) / 4

/-- `bcd_encode(value, width)` in closed form (R79), element 0 first. A value too large for its field is truncated in
silence (R80). -/
def bcdEncode (value width : Nat) : List Bool :=
  (List.range width).map fun j =>
    let p := width - 1 - j
    (digit value (p / 4)).testBit (p % 4)

/-- The overflow predicate (R81), for claims only: no port or register shows it. -/
def bcdOverflow (value width : Nat) : Bool := decide (10 ^ digitCount width ≤ value)

/-! ### The frame builder -/

/-- `f[i] <- b`. -/
def putBit (f : Frame) (i : Nat) (b : Bool) : Frame :=
  if b then f ||| BitVec.twoPow 60 i else f &&& ~~~(BitVec.twoPow 60 i)

/-- `f[a + j] <- bs[j]` for every element of `bs`: element 0 goes to the lowest index (R88). -/
def writeField (f : Frame) (a : Nat) : List Bool → Frame
  | [] => f
  | b :: bs => writeField (putBit f a b) (a + 1) bs

/-- Steps 1 and 2 of `build`: 60 zeros, then ones at the six marker slots (R86, R87). -/
def markedFrame : Frame := [0, 10, 20, 30, 40, 50].foldl (fun f i => putBit f i true) 0#60

/-- The seconds field goes to 1 to 8 (R89). -/
def putSeconds (f : Frame) (bs : List Bool) : Frame := writeField f 1 bs

/-- The minutes field goes to 10 to 17 (R90). -/
def putMinutes (f : Frame) (bs : List Bool) : Frame := writeField f 10 bs

/-- The hours field goes to 20 to 27 (R91). -/
def putHours (f : Frame) (bs : List Bool) : Frame := writeField f 20 bs

/-- The day-of-year field: its first 10 elements go to 30 to 39, the remaining ones to 40 on, and zeros to 47 and 48 (R92). -/
def putDoy (f : Frame) (bs : List Bool) : Frame :=
  writeField (writeField (writeField f 30 (bs.take 10)) 40 (bs.drop 10)) 47 [false, false]

/-- `build(sec, min, hour, doy)`: the five steps in the document's order (R85, R93). -/
def build (sec min hour doy : Nat) : Frame :=
  putDoy (putHours (putMinutes (putSeconds markedFrame (bcdEncode sec 8)) (bcdEncode min 8)) (bcdEncode hour 8))
    (bcdEncode doy 17)

/-- `build` of a sample record: each port value enters as a non-negative integer (R64). -/
def buildSample (s : Sample) : Frame := build s.sec.toNat s.min.toNat s.hour.toNat s.doy.toNat

/-- The four time inputs of a cycle as a sample record (R63). -/
def Inputs.sample (i : Inputs) : Sample := { sec := i.tsSec, min := i.tsMin, hour := i.tsHour, doy := i.tsDoy }

/-- The elements of a field held in a vector, bit `j` being element `j`. -/
def fieldElems {w : Nat} (v : BitVec w) : List Bool := (List.range w).map fun j => v.getLsbD j

/-- A frame by the contents of its fields, in the layout of R56 and R94. -/
def layoutFrame (sec min hour : BitVec 8) (doy : BitVec 17) : Frame :=
  putDoy (putHours (putMinutes (putSeconds markedFrame (fieldElems sec)) (fieldElems min)) (fieldElems hour))
    (fieldElems doy)

/-- Character `i` of a rendered frame (R70, R98). -/
def renderChar (f : Frame) (i : Nat) : Char :=
  if i % Config.markPeriod = 0 then 'P' else if f.getLsbD i then '1' else '0'

/-- `render(frame)`: 60 characters (R98). -/
def render (f : Frame) : List Char := (List.range Config.frameLen).map (renderChar f)

/-! ### The symbols -/

/-- `sym(f, i)` (R101): the marker test is first and is positional. -/
def sym (f : Frame) (i : Nat) : Symbol :=
  if i % Config.markPeriod = 0 then .mark else if f.getLsbD i then .one else .zero

/-- `hi_ticks` of a symbol (R105). -/
def hiTicks : Symbol → Nat
  | .mark => 8
  | .one => 5
  | .zero => 2

/-- `lo_ticks` of a symbol (R105). -/
def loTicks (y : Symbol) : Nat := Config.bitTicks - hiTicks y

/-- Clock cycles of the high phase of a symbol (R105). -/
def hiLen (p : Params) (y : Symbol) : Nat := hiTicks y * p.tickDiv

/-- Clock cycles of the low phase of a symbol (R105). -/
def loLen (p : Params) (y : Symbol) : Nat := loTicks y * p.tickDiv

/-! ### Codes -/

/-- `ST` (R61). -/
def St.code : St → BitVec 3
  | .idle => 0b000#3 | .config => 0b001#3 | .high => 0b010#3 | .low => 0b011#3 | .abort => 0b100#3 | .rel => 0b101#3

/-- `ERR` (R62). -/
def ErrCode.code : ErrCode → BitVec 3
  | .none => 0#3 | .encoding => 1#3 | .ioConfig => 2#3 | .transmit => 3#3 | .invariant => 4#3

/-- `SINKOP` (R60). -/
def SinkOp.code : SinkOp → BitVec 2
  | .none => 0b00#2 | .configure => 0b01#2 | .set => 0b10#2 | .release => 0b11#2

end Sys2Proof.Machine
end

