-- ==== Sys2Proof/Machine/Flags.lean ====
section
/-! DEFINITION. The status of the block: the pending cancellation (R25), the error status (R26), and which error a cycle
raises (R143). The block has no condition codes (R34). -/

namespace Sys2Proof.Machine

/-- `cancel_req` (R129), from the register before the edge and the input of the cycle. -/
def cancelReq (r : Regs) (i : Inputs) : Bool := r.cancel || i.stop

/-- The three error registers are cleared together (R26), by an accepted start (R121). -/
def Regs.clearError (r : Regs) : Regs := { r with err := false, errCode := .none, errBit := 0#6 }

/-- The three error registers are written together (R26, R140); an earlier error is overwritten (R152). -/
def Regs.recordError (r : Regs) (code : ErrCode) (bit : BitIdx) : Regs :=
  { r with err := true, errCode := code, errBit := bit }

/-- The error that the sink's answer raises in a cycle with operation `op` on `sink_op_o`: `sink_fault_i` is read where R143
says and nowhere else, and it answers the operation issued in that cycle. -/
def causeOf (r : Regs) (op : SinkOp) (fault : Bool) : ErrCode :=
  match r.st, op with
  | .config, .configure => if fault = true then .ioConfig else .none
  | .high, .set | .low, .set => if fault = true ∧ r.cyc = 0 then .transmit else .none
  | _, _ => .none

/-- `done` after the edge that ends the last cycle of a low phase (R27): only bit 59 gives the notice. -/
def doneAtBoundary (r : Regs) : Bool := decide (r.bitIdx = 59#6)

end Sys2Proof.Machine
end

