-- ==== Sys2Proof/Machine/Ops.lean ====
section
/-! DEFINITION. The clocked machine: taking an error and the way out of it (60), the rules of the six states (43, 44), the
step function `edge` assembled from them, the outputs (10), and one clock cycle of block and environment. -/

namespace Sys2Proof.Machine

/-- `begin_frame` (R125): sample, build and start bit 0, in one edge. -/
def Regs.beginFrame (r : Regs) (i : Inputs) : Regs :=
  { r with frame := buildSample i.sample, bitIdx := 0#6, st := .high, cyc := 0 }

/-! ### Taking an error, and the way out -/

/-- Taking an error, the one operation of both entries: the cause and its tag are recorded and the machine goes to a fixed
state (R140, R145, R146). There is no vector, no saved program counter, no handler (R140). The cancellation request of the
cycle is still latched (R156). -/
def takeError (r : Regs) (i : Inputs) (code : ErrCode) (bit : BitIdx) (target : St) : Regs :=
  { r.recordError code bit with st := target, cancel := cancelReq r i, done := false }

/-- `raise ConfigError`: the configure error (R145). -/
def raiseConfigError (r : Regs) (i : Inputs) : Regs := takeError r i .ioConfig 0#6 .rel

/-- `raise TransmitError(bit_idx)`: the abort entry (R146), which also ends the phase. -/
def raiseTransmitError (r : Regs) (i : Inputs) : Regs := { takeError r i .transmit r.bitIdx .abort with cyc := 0 }

/-- The way out of `ABORT` (R150): a new frame where the instance retries and no cancellation is pending, else the release.
The failing frame is never resumed (R147), and the answer to the forced-low write is not read (R151). -/
def leaveAbort (p : Params) (r : Regs) (i : Inputs) : Regs :=
  let n := { r with cancel := cancelReq r i, done := false }
  if p.retryOnIoErr && !cancelReq r i then n.beginFrame i else { n with st := .rel }

/-! ### The rules of the other states -/

/-- `IDLE`: an accepted start (R121), else nothing but the forgetting of a cancellation (R122). -/
def idleRule (r : Regs) (i : Inputs) : Regs :=
  let n := { r with cancel := false, done := false }
  if i.start && !i.stop then { n.clearError with st := .config } else n

/-- `CONFIG` with no error raised: cancelled before the first bit (R124), else the first frame (R126). -/
def configRule (r : Regs) (i : Inputs) : Regs :=
  if cancelReq r i then { r with st := .rel, cancel := true, done := false }
  else { r with cancel := false, done := false }.beginFrame i

/-- `HIGH` with no error raised, for the symbol of the bit: the end of the high phase (R111), else count (R110). A pending
cancellation is not honoured here. -/
def highRule (p : Params) (r : Regs) (i : Inputs) (y : Symbol) : Regs :=
  let n := { r with cancel := cancelReq r i, done := false }
  if r.cyc = hiLen p y - 1 then { n with st := .low, cyc := 0 } else { n with cyc := r.cyc + 1 }

/-- The bit boundary, the last cycle of a low phase (R113): a cancellation is honoured, or the next frame begins with no gap,
or the next bit. -/
def bitBoundary (r : Regs) (i : Inputs) : Regs :=
  let n := { r with cancel := cancelReq r i, done := doneAtBoundary r }
  if cancelReq r i then { n with st := .rel, cyc := 0 }
  else if r.bitIdx = 59#6 then n.beginFrame i
  else { n with bitIdx := r.bitIdx + 1#6, st := .high, cyc := 0 }

/-- `LOW` with no error raised: the bit boundary (R113), else count (R112). -/
def lowRule (p : Params) (r : Regs) (i : Inputs) (y : Symbol) : Regs :=
  if r.cyc = loLen p y - 1 then bitBoundary r i
  else { r with cyc := r.cyc + 1, cancel := cancelReq r i, done := false }

/-- `REL` (R130). -/
def relRule (r : Regs) : Regs := { r with st := .idle, cancel := false, done := false }

/-- The registers after the edge that ends a cycle in which the bit on the line has symbol `y` and the error `cause` is
raised. The order is that of R156: reset, a fault that is read, then the rule of the state. -/
def edge (p : Params) (r : Regs) (i : Inputs) (y : Symbol) (cause : ErrCode) : Regs :=
  if i.rst then Regs.reset
  else match cause with
    | .ioConfig => raiseConfigError r i
    | .transmit => raiseTransmitError r i
    | .none | .encoding | .invariant =>
      match r.st with
      | .idle => idleRule r i
      | .config => configRule r i
      | .high => highRule p r i y
      | .low => lowRule p r i y
      | .abort => leaveAbort p r i
      | .rel => relRule r

/-! ### Outputs -/

/-- `line_o` (R29). -/
def lineOf (r : Regs) : Bool := decide (r.st = .high)

/-- `line_oe_o` (R29). -/
def lineOeOf (r : Regs) : Bool :=
  match r.st with
  | .config | .high | .low | .abort => true
  | .idle | .rel => false

/-- `sink_op_o` (R30). -/
def sinkOpOf (r : Regs) : SinkOp :=
  match r.st with
  | .config => .configure
  | .high | .low => if r.cyc = 0 then .set else .none
  | .abort => .set
  | .rel => .release
  | .idle => .none

/-- The output ports (R16, R17). -/
structure Outputs where
  line       : Bool
  lineOe     : Bool
  sinkOp     : BitVec 2
  busy       : Bool
  frame      : BitVec 60
  bitIdx     : BitVec 6
  frameStart : Bool
  done       : Bool
  err        : Bool
  errCode    : BitVec 3
  errBit     : BitVec 6
  deriving DecidableEq, Repr

/-- `out(S)`: the outputs are functions of the registers alone (R29, R30, R31). -/
def out (r : Regs) : Outputs :=
  { line := lineOf r, lineOe := lineOeOf r, sinkOp := (sinkOpOf r).code, busy := decide (r.st ≠ .idle), frame := r.frame,
    bitIdx := r.bitIdx, frameStart := decide (r.st = .high ∧ r.bitIdx = 0#6 ∧ r.cyc = 0), done := r.done, err := r.err,
    errCode := r.errCode.code, errBit := r.errBit }

/-! ### One clock cycle -/

/-- The symbol of the bit the registers point at, `sym(frame, bit_idx)` (R101). -/
def symOf (r : Regs) : Symbol := sym r.frame r.bitIdx.toNat

/-- The error raised in a cycle in which the block shows its own outputs (R143). -/
def causeNow (r : Regs) (i : Inputs) : ErrCode := causeOf r (sinkOpOf r) i.sinkFault

/-- `step(S, I)` of the spec (44 section 4): the registers after a cycle of the block. -/
def stepRegs (p : Params) (r : Regs) (i : Inputs) : Regs := edge p r i (symOf r) (causeNow r i)

/-- The operation of the cycle reaches the sink, with the level on `line_o` (R16, R45); `NONE` is no operation (R60). -/
def logCall (op : SinkOp) (level : Bool) (calls : List SinkCall) : List SinkCall :=
  match op with
  | .none => calls
  | .configure | .set | .release => { op := op, level := level } :: calls

/-- The end of a cycle that showed operation `op` and the line of `shown`: the registers take their new values, the sink has
been asked, and the ports go on to the next input record or keep their levels (R71; log 4). -/
def State.endCycle (s : State) (shown : Regs) (op : SinkOp) (next : Regs) : State :=
  { s with regs := next, ports := s.pending.headD s.ports, pending := s.pending.tail,
           calls := logCall op (lineOf shown) s.calls }

/-- A cycle of the block from registers `r` with inputs `i`, the block decoding everything for itself. -/
def State.cycleFrom (s : State) (r : Regs) (i : Inputs) : State :=
  s.endCycle r (sinkOpOf r) (stepRegs s.params r i)

/-- A cycle in which the bit on the line has symbol `y`. -/
def State.cycleSym (s : State) (y : Symbol) : State :=
  s.endCycle s.regs (sinkOpOf s.regs) (edge s.params s.regs s.ports y (causeNow s.regs s.ports))

/-- A cycle in which `op` stands on `sink_op_o`. -/
def State.cycleSink (s : State) (op : SinkOp) : State :=
  s.endCycle s.regs op (edge s.params s.regs s.ports (symOf s.regs) (causeOf s.regs op s.ports.sinkFault))

/-- A cycle in which the error `cause` is raised. -/
def State.cycleRaising (s : State) (cause : ErrCode) : State :=
  s.endCycle s.regs (sinkOpOf s.regs) (edge s.params s.regs s.ports (symOf s.regs) cause)

/-- A cycle with the levels `start` and `stop` on the command inputs (R59). -/
def State.cycleCmd (s : State) (start stop : Bool) : State :=
  s.cycleFrom s.regs { s.ports with start := start, stop := stop }

/-- A cycle with the code of `st` in the `st` register (R61). -/
def State.cycleIn (s : State) (st : St) : State := s.cycleFrom { s.regs with st := st } s.ports

/-- A cycle of the block by itself: the spec's `S_(t+1) = step(S_t, I_t)` (R13). -/
def State.clock (s : State) : State := s.cycleFrom s.regs s.ports

/-! ### Delivering a result of the functional layer (log 2) -/

/-- A bit sequence is delivered. -/
def State.deliverBits (s : State) (bs : List Bool) : State := { s with func := { s.func with bits := bs } }

/-- A frame is delivered. -/
def State.deliverFrame (s : State) (f : Frame) : State := { s with func := { s.func with frame := f } }

/-- A symbol is delivered. -/
def State.deliverSymbol (s : State) (y : Symbol) : State := { s with func := { s.func with symbol := some y } }

/-- A rendered frame is delivered. -/
def State.deliverText (s : State) (t : List Char) : State := { s with func := { s.func with text := t } }

end Sys2Proof.Machine
end

