-- ==== Sys2Proof/Machine/Builder.lean ====
section
/-! DEFINITION. The operations of the frame builder: `BUILD`, `FRAME`, the four fields and `RENDER` (42). They read and write no
register (R85, R99) and take no clock cycle; the result is delivered to the observer (log 2). `begin_frame`, which does write
the frame register, is in Ops. -/

namespace Sys2Proof.Machine

/-- `BUILD` (R85 to R92): the frame of a sample record. -/
def execBuild (sample : Sample) (s : State) : Host.Outcome State Fault Refusal :=
  .next (s.deliverFrame (buildSample sample))

/-- `FRAME` (R56, R94): the frame whose fields have the given contents. -/
def execFrame (sec min hour : BitVec 8) (doy : BitVec 17) (s : State) : Host.Outcome State Fault Refusal :=
  .next (s.deliverFrame (layoutFrame sec min hour doy))

/-- `FIELD.SEC` (R88, R89): the two digits are written to 1 to 8 of the working sequence. -/
def execFieldSec (tens units : Digit) (s : State) : Host.Outcome State Fault Refusal :=
  .next (s.deliverFrame (putSeconds s.func.frame (nibble tens ++ nibble units)))

/-- `FIELD.MIN` (R88, R90): the two digits are written to 10 to 17 of the working sequence. -/
def execFieldMin (tens units : Digit) (s : State) : Host.Outcome State Fault Refusal :=
  .next (s.deliverFrame (putMinutes s.func.frame (nibble tens ++ nibble units)))

/-- `FIELD.HOUR` (R88, R91): the two digits are written to 20 to 27 of the working sequence. -/
def execFieldHour (tens units : Digit) (s : State) : Host.Outcome State Fault Refusal :=
  .next (s.deliverFrame (putHours s.func.frame (nibble tens ++ nibble units)))

/-- `FIELD.DOY` (R88, R92): the 17 bits are written to 30 to 46 of the working sequence and zeros to 47 and 48. -/
def execFieldDoy (tenThousands : Bool) (thousands hundreds tens units : Digit) (s : State) : Host.Outcome State Fault Refusal :=
  .next (s.deliverFrame (putDoy s.func.frame
    (tenThousands :: (nibble thousands ++ nibble hundreds ++ nibble tens ++ nibble units))))

/-- `RENDER` (R70, R98): the frame as 60 characters. -/
def execRender (f : Frame) (s : State) : Host.Outcome State Fault Refusal :=
  .next (s.deliverText (render f))

end Sys2Proof.Machine
end

