-- ==== Sys2Proof/Machine/Commands.lean ====
section
/-! DEFINITION. The command inputs (30 R59): a clock cycle with the command on `start_i` and `stop_i` (log 1). -/

namespace Sys2Proof.Machine

/-- `CMD.NOP` (R59): neither input is 1. -/
def execCmdNop (s : State) : Host.Outcome State Fault Refusal :=
  .next (s.cycleCmd false false)

/-- `CMD.START` (R59, R121): a start is requested; it is accepted in `IDLE` only (R134). -/
def execCmdStart (s : State) : Host.Outcome State Fault Refusal :=
  .next (s.cycleCmd true false)

/-- `CMD.STOP` (R59, R128, R129): a cancellation is requested; with `start_i` at 1 too, stop wins in `IDLE`. -/
def execCmdStop (start : Bool) (s : State) : Host.Outcome State Fault Refusal :=
  .next (s.cycleCmd start true)

end Sys2Proof.Machine
end

