-- ==== Sys2Proof/Machine/Encoder.lean ====
section
/-! DEFINITION. The operations of the BCD encoder: `ENCODE` and the ten digits (41). They read and write no register (R81) and
take no clock cycle; the result is delivered to the observer (log 2). -/

namespace Sys2Proof.Machine

/-- `ENCODE` (R73 to R80): the field of a value at a positive width; at width 0 the function is not defined (log 12). -/
def execEncode (value width : Nat) (s : State) : Host.Outcome State Fault Refusal :=
  if width = 0 then .refused .encodeWidthZero else .next (s.deliverBits (bcdEncode value width))

/-- `DIGIT.0`: the nibble of 0 (R54, R76). -/
def execDigit0 (s : State) : Host.Outcome State Fault Refusal :=
  .next (s.deliverBits (nibble 0))

/-- `DIGIT.1`: the nibble of 1 (R54, R76). -/
def execDigit1 (s : State) : Host.Outcome State Fault Refusal :=
  .next (s.deliverBits (nibble 1))

/-- `DIGIT.2`: the nibble of 2 (R54, R76). -/
def execDigit2 (s : State) : Host.Outcome State Fault Refusal :=
  .next (s.deliverBits (nibble 2))

/-- `DIGIT.3`: the nibble of 3 (R54, R76). -/
def execDigit3 (s : State) : Host.Outcome State Fault Refusal :=
  .next (s.deliverBits (nibble 3))

/-- `DIGIT.4`: the nibble of 4 (R54, R76). -/
def execDigit4 (s : State) : Host.Outcome State Fault Refusal :=
  .next (s.deliverBits (nibble 4))

/-- `DIGIT.5`: the nibble of 5 (R54, R76). -/
def execDigit5 (s : State) : Host.Outcome State Fault Refusal :=
  .next (s.deliverBits (nibble 5))

/-- `DIGIT.6`: the nibble of 6 (R54, R76). -/
def execDigit6 (s : State) : Host.Outcome State Fault Refusal :=
  .next (s.deliverBits (nibble 6))

/-- `DIGIT.7`: the nibble of 7 (R54, R76). -/
def execDigit7 (s : State) : Host.Outcome State Fault Refusal :=
  .next (s.deliverBits (nibble 7))

/-- `DIGIT.8`: the nibble of 8 (R54, R76). -/
def execDigit8 (s : State) : Host.Outcome State Fault Refusal :=
  .next (s.deliverBits (nibble 8))

/-- `DIGIT.9`: the nibble of 9 (R54, R76). -/
def execDigit9 (s : State) : Host.Outcome State Fault Refusal :=
  .next (s.deliverBits (nibble 9))

end Sys2Proof.Machine
end

