-- ==== Sys2Proof/Machine/Errors.lean ====
section
/-! DEFINITION. The error codes (R62, R139): a clock cycle in which the error is raised, with the register writes that R12 abbreviates
as `raise` (log 1). The two reserved codes are never raised (log 11). -/

namespace Sys2Proof.Machine

/-- `ERR.NONE` (R139, R140): no error is raised; the cycle takes the rule of its state, and the recorded status stays (R26)
unless that rule clears it (R121) (log 10). -/
def execErrNone (s : State) : Host.Outcome State Fault Refusal :=
  .next (s.cycleRaising .none)

/-- `ERR.ENCODING`: never raised (R141); the code is a reserved name that is never written (R68; 93 U11). -/
def execErrEncoding (_s : State) : Host.Outcome State Fault Refusal :=
  .refused (.reservedErrorCode .encoding)

/-- `ERR.IO_CONFIG`: the configure error is taken (R145). -/
def execErrIoConfig (s : State) : Host.Outcome State Fault Refusal :=
  .next (s.cycleRaising .ioConfig)

/-- `ERR.TRANSMIT`: the transmit error is taken, tagged with the bit index (R146). -/
def execErrTransmit (s : State) : Host.Outcome State Fault Refusal :=
  .next (s.cycleRaising .transmit)

/-- `ERR.INVARIANT`: cannot occur (R142); the code is a reserved name that is never written (R68; 93 U11). -/
def execErrInvariant (_s : State) : Host.Outcome State Fault Refusal :=
  .refused (.reservedErrorCode .invariant)

end Sys2Proof.Machine
end

