-- ==== Sys2Proof/Machine/Sink.lean ====
section
/-! DEFINITION. The operations on the digital output sink (R16, R60): a clock cycle with the operation on `sink_op_o`, its answer read
where R143 says (log 1). -/

namespace Sys2Proof.Machine

/-- `SINK.NONE` (R30): no operation, so no answer is read (R143). -/
def execSinkNone (s : State) : Host.Outcome State Fault Refusal :=
  .next (s.cycleSink .none)

/-- `SINK.CONFIGURE` (R123): `configure_as_output`, answered in the same cycle (R143, R145). -/
def execSinkConfigure (s : State) : Host.Outcome State Fault Refusal :=
  .next (s.cycleSink .configure)

/-- `SINK.SET` (R108): `set` with the level of `line_o`, answered in the same cycle (R143, R146). -/
def execSinkSet (s : State) : Host.Outcome State Fault Refusal :=
  .next (s.cycleSink .set)

/-- `SINK.RELEASE` (R130): `release`, which has no answer. -/
def execSinkRelease (s : State) : Host.Outcome State Fault Refusal :=
  .next (s.cycleSink .release)

end Sys2Proof.Machine
end

