-- ==== Sys2Proof/Machine/States.lean ====
section
/-! DEFINITION. The six states of the control machine (R22, R61): a clock cycle with the code in `st`, that is, the branch of the step
function (44 section 4) for that state (log 1). -/

namespace Sys2Proof.Machine

/-- `ST.IDLE` (R121, R122). -/
def execStIdle (s : State) : Host.Outcome State Fault Refusal :=
  .next (s.cycleIn .idle)

/-- `ST.CONFIG` (R123 to R126, R145). -/
def execStConfig (s : State) : Host.Outcome State Fault Refusal :=
  .next (s.cycleIn .config)

/-- `ST.HIGH` (R108 to R111, R146). -/
def execStHigh (s : State) : Host.Outcome State Fault Refusal :=
  .next (s.cycleIn .high)

/-- `ST.LOW` (R108, R109, R112, R113, R146). -/
def execStLow (s : State) : Host.Outcome State Fault Refusal :=
  .next (s.cycleIn .low)

/-- `ST.ABORT` (R149 to R151). -/
def execStAbort (s : State) : Host.Outcome State Fault Refusal :=
  .next (s.cycleIn .abort)

/-- `ST.REL` (R130). -/
def execStRel (s : State) : Host.Outcome State Fault Refusal :=
  .next (s.cycleIn .rel)

end Sys2Proof.Machine
end

