-- ==== Sys2Proof/Machine/Transmitter.lean ====
section
/-! DEFINITION. The operations of the frame transmitter (43): `SYM`, a pure function (R101), and the three symbols, each a clock cycle
in which the bit on the line has that symbol (R102 to R105; log 1). -/

namespace Sys2Proof.Machine

/-- `SYM` (R101): the symbol of an index of a frame. -/
def execSym (f : Frame) (i : Fin 60) (s : State) : Host.Outcome State Fault Refusal :=
  .next (s.deliverSymbol (sym f i.val))

/-- `SYM.MARK` (R102): 8 ticks high, 2 ticks low, whatever the stored bit (R58, R107). -/
def execSymMark (_stored : Bool) (s : State) : Host.Outcome State Fault Refusal :=
  .next (s.cycleSym .mark)

/-- `SYM.ONE` (R103): 5 ticks high, 5 ticks low. -/
def execSymOne (s : State) : Host.Outcome State Fault Refusal :=
  .next (s.cycleSym .one)

/-- `SYM.ZERO` (R104): 2 ticks high, 8 ticks low. -/
def execSymZero (s : State) : Host.Outcome State Fault Refusal :=
  .next (s.cycleSym .zero)

end Sys2Proof.Machine
end

