-- ==== Sys2Proof/Machine/Dispatch.lean ====
section
/-! DEFINITION. The dispatch: one arm per constructor of `Instr`. -/

namespace Sys2Proof.Machine

/-- The meaning of each instruction. -/
def exec (i : Instr) (s : State) : Host.Outcome State Fault Refusal :=
  match i with
  -- FUNC and frame
  | .encode value width => Sys2Proof.Machine.execEncode value width s
  | .build sample => Sys2Proof.Machine.execBuild sample s
  | .render f => Sys2Proof.Machine.execRender f s
  | .sym f idx => Sys2Proof.Machine.execSym f idx s
  | .frame sec min hour doy => Sys2Proof.Machine.execFrame sec min hour doy s
  | .fieldSec tens units => Sys2Proof.Machine.execFieldSec tens units s
  | .fieldMin tens units => Sys2Proof.Machine.execFieldMin tens units s
  | .fieldHour tens units => Sys2Proof.Machine.execFieldHour tens units s
  | .fieldDoy p k h t u => Sys2Proof.Machine.execFieldDoy p k h t u s
  -- digits
  | .digit0 => Sys2Proof.Machine.execDigit0 s
  | .digit1 => Sys2Proof.Machine.execDigit1 s
  | .digit2 => Sys2Proof.Machine.execDigit2 s
  | .digit3 => Sys2Proof.Machine.execDigit3 s
  | .digit4 => Sys2Proof.Machine.execDigit4 s
  | .digit5 => Sys2Proof.Machine.execDigit5 s
  | .digit6 => Sys2Proof.Machine.execDigit6 s
  | .digit7 => Sys2Proof.Machine.execDigit7 s
  | .digit8 => Sys2Proof.Machine.execDigit8 s
  | .digit9 => Sys2Proof.Machine.execDigit9 s
  -- symbols
  | .symMark stored => Sys2Proof.Machine.execSymMark stored s
  | .symOne => Sys2Proof.Machine.execSymOne s
  | .symZero => Sys2Proof.Machine.execSymZero s
  -- commands
  | .cmdNop => Sys2Proof.Machine.execCmdNop s
  | .cmdStart => Sys2Proof.Machine.execCmdStart s
  | .cmdStop start => Sys2Proof.Machine.execCmdStop start s
  -- sink operations
  | .sinkNone => Sys2Proof.Machine.execSinkNone s
  | .sinkConfigure => Sys2Proof.Machine.execSinkConfigure s
  | .sinkSet => Sys2Proof.Machine.execSinkSet s
  | .sinkRelease => Sys2Proof.Machine.execSinkRelease s
  -- states
  | .stIdle => Sys2Proof.Machine.execStIdle s
  | .stConfig => Sys2Proof.Machine.execStConfig s
  | .stHigh => Sys2Proof.Machine.execStHigh s
  | .stLow => Sys2Proof.Machine.execStLow s
  | .stAbort => Sys2Proof.Machine.execStAbort s
  | .stRel => Sys2Proof.Machine.execStRel s
  -- errors
  | .errNone => Sys2Proof.Machine.execErrNone s
  | .errEncoding => Sys2Proof.Machine.execErrEncoding s
  | .errIoConfig => Sys2Proof.Machine.execErrIoConfig s
  | .errTransmit => Sys2Proof.Machine.execErrTransmit s
  | .errInvariant => Sys2Proof.Machine.execErrInvariant s

end Sys2Proof.Machine
end

