-- ==== Sys2Proof/Machine/Fetch.lean ====
section
/-! DEFINITION. What a step fetches: the operation word at the head of the queue, or, when the queue is empty and the block
runs by itself, the command that stands on its inputs in this cycle (log 3). -/

namespace Sys2Proof.Machine

/-- The word of the command inputs (R59): what the block decodes in every cycle (R68). -/
def commandWord (i : Inputs) : OpWord := word .cmd (i.start.toNat * 2 + i.stop.toNat)

/-- The word the step runs, and the state once it is taken. -/
def fetch (s : State) : OpWord × State :=
  match s.queue with
  | [] => (commandWord s.ports, s)
  | w :: ws => (w, { s with queue := ws })

end Sys2Proof.Machine
end

