-- ==== Sys2Proof/Machine/Step.lean ====
section
/-! DEFINITION. One step, and where a word is put so that the next step runs it. -/

namespace Sys2Proof.Machine

/-- One step: fetch, decode, run. A queue word that is no word of its place is refused by name (log 18). -/
def step (s : State) : Host.Outcome State Fault Refusal :=
  match decode (fetch s).1 with
  | .ok i => exec i (fetch s).2
  | .error e => .refused (.undecodable e)

/-- `s` with a word of the table at the head of the queue, where the next step fetches (log 6, log 13). -/
def State.withFetchWord (s : State) (nbits w : Nat) : State := { s with queue := tableWord nbits w :: s.queue }

end Sys2Proof.Machine
end

