-- ==== Sys2Proof/Safety.lean ====
section
/-! DEFINITION. The terms in which claims are made: the document's encoder step by step, the listing of the step function,
the invariants of the registers and of the sink's calls, and runs of the block by itself. The machine uses none of them. -/

namespace Sys2Proof.Safety

open Sys2Proof.Machine

/-! ### The encoder step by step -/

/-- The decimal digits of a value without leading zeros, counted with fuel (R74). -/
def ndigitsFuel : Nat → Nat → Nat
  | 0, _ => 1
  | k + 1, value => if value < 10 then 1 else ndigitsFuel k (value / 10) + 1

/-- `ndigits(value)` (R74); `ndigits(0) = 1`. -/
def ndigits (value : Nat) : Nat := ndigitsFuel value value

/-- The digit string `D` of R74 and R75: `max(n, ndigits(value))` digits, most significant first. -/
def digitString (value width : Nat) : List Nat :=
  (List.range (max (digitCount width) (ndigits value))).reverse.map (digit value)

/-- Steps 1 to 5 of the document's encoder (R74 to R78): the digits, their nibbles, one string, its last `width` bits. -/
def encodeBySteps (value width : Nat) : List Bool :=
  let b := (digitString value width).flatMap nibble
  b.drop (b.length - width)

/-- The value of a nibble, most significant bit first. -/
def nibbleValue (bs : List Bool) : Nat := bs.foldl (fun n b => 2 * n + b.toNat) 0

/-- `bcd_decode` of `n` nibbles, most significant first: a helper of claims, no part of the block (N7). The spec defines it only
on `4 * n` bits whose nibbles are at most 9 (R65, 95); that a nibble of 10 to 15 counts as its binary value here, and that
missing bits are read as none and surplus ones not at all, is the model's (DESIGN CHOICE, log 19). -/
def bcdDecode : Nat → List Bool → Nat
  | 0, _ => 0
  | n + 1, bs => nibbleValue (bs.take 4) * 10 ^ n + bcdDecode n (bs.drop 4)

/-- A sequence extended on the left with zeros to whole nibbles (N7). -/
def padToNibbles (bs : List Bool) : List Bool := List.replicate (4 * digitCount bs.length - bs.length) false ++ bs

/-! ### The frame index by index -/

/-- The stored value at each index, transcribed from the table of R94. -/
def frameTable (sec min hour doy : Nat) : Nat → Bool
  | 0 => true
  | 1 => (digit sec 1).testBit 3
  | 2 => (digit sec 1).testBit 2
  | 3 => (digit sec 1).testBit 1
  | 4 => (digit sec 1).testBit 0
  | 5 => (digit sec 0).testBit 3
  | 6 => (digit sec 0).testBit 2
  | 7 => (digit sec 0).testBit 1
  | 8 => (digit sec 0).testBit 0
  | 10 => (digit min 1).testBit 3
  | 11 => (digit min 1).testBit 2
  | 12 => (digit min 1).testBit 1
  | 13 => (digit min 1).testBit 0
  | 14 => (digit min 0).testBit 3
  | 15 => (digit min 0).testBit 2
  | 16 => (digit min 0).testBit 1
  | 17 => (digit min 0).testBit 0
  | 20 => (digit hour 1).testBit 3
  | 21 => (digit hour 1).testBit 2
  | 22 => (digit hour 1).testBit 1
  | 23 => (digit hour 1).testBit 0
  | 24 => (digit hour 0).testBit 3
  | 25 => (digit hour 0).testBit 2
  | 26 => (digit hour 0).testBit 1
  | 27 => (digit hour 0).testBit 0
  | 30 => (digit doy 4).testBit 0
  | 31 => (digit doy 3).testBit 3
  | 32 => (digit doy 3).testBit 2
  | 33 => (digit doy 3).testBit 1
  | 34 => (digit doy 3).testBit 0
  | 35 => (digit doy 2).testBit 3
  | 36 => (digit doy 2).testBit 2
  | 37 => (digit doy 2).testBit 1
  | 38 => (digit doy 2).testBit 0
  | 39 => (digit doy 1).testBit 3
  | 40 => (digit doy 1).testBit 2
  | 41 => (digit doy 1).testBit 1
  | 42 => (digit doy 1).testBit 0
  | 43 => (digit doy 0).testBit 3
  | 44 => (digit doy 0).testBit 2
  | 45 => (digit doy 0).testBit 1
  | 46 => (digit doy 0).testBit 0
  | 50 => true
  | _ => false

/-! ### The listing of the step function -/

/-- `begin_frame` as the listing of 44 section 4 has it. -/
def listingBeginFrame (n : Regs) (i : Inputs) : Regs :=
  { n with frame := build i.tsSec.toNat i.tsMin.toNat i.tsHour.toNat i.tsDoy.toNat, bitIdx := 0#6, st := .high, cyc := 0 }

/-- `step(S, I)` transcribed from the listing of 44 section 4: state by state, the fault tested in each state that reads it. -/
def listing (p : Params) (r : Regs) (i : Inputs) : Regs :=
  if i.rst then Regs.reset
  else
    let n := { r with done := false }
    let req := r.cancel || i.stop
    let hl := hiTicks (sym r.frame r.bitIdx.toNat) * p.tickDiv
    let ll := (10 - hiTicks (sym r.frame r.bitIdx.toNat)) * p.tickDiv
    match r.st with
    | .idle =>
      let n := { n with cancel := false }
      if i.start = true ∧ i.stop = false then
        { n with st := .config, err := false, errCode := .none, errBit := 0#6 }
      else n
    | .config =>
      let n := { n with cancel := req }
      if i.sinkFault then { n with err := true, errCode := .ioConfig, errBit := 0#6, st := .rel }
      else if req then { n with st := .rel }
      else { listingBeginFrame n i with cancel := false }
    | .high =>
      let n := { n with cancel := req }
      if r.cyc = 0 ∧ i.sinkFault = true then
        { n with err := true, errCode := .transmit, errBit := r.bitIdx, st := .abort, cyc := 0 }
      else if r.cyc = hl - 1 then { n with st := .low, cyc := 0 }
      else { n with cyc := r.cyc + 1 }
    | .low =>
      let n := { n with cancel := req }
      if r.cyc = 0 ∧ i.sinkFault = true then
        { n with err := true, errCode := .transmit, errBit := r.bitIdx, st := .abort, cyc := 0 }
      else if r.cyc = ll - 1 then
        let n := { n with done := decide (r.bitIdx = 59#6) }
        if req then { n with st := .rel, cyc := 0 }
        else if r.bitIdx = 59#6 then listingBeginFrame n i
        else { n with bitIdx := r.bitIdx + 1#6, st := .high, cyc := 0 }
      else { n with cyc := r.cyc + 1 }
    | .abort =>
      let n := { n with cancel := req }
      if p.retryOnIoErr = true ∧ req = false then listingBeginFrame n i
      else { n with st := .rel }
    | .rel => { n with st := .idle, cancel := false }

/-- The calls the sink has seen once the cycle of `r` is over: `sink_op_o` and `line_o` as R29 and R30 give them. -/
def callsAfter (r : Regs) (calls : List SinkCall) : List SinkCall :=
  match r.st with
  | .idle => calls
  | .config => { op := .configure, level := false } :: calls
  | .high => if r.cyc = 0 then { op := .set, level := true } :: calls else calls
  | .low => if r.cyc = 0 then { op := .set, level := false } :: calls else calls
  | .abort => { op := .set, level := false } :: calls
  | .rel => { op := .release, level := false } :: calls

/-- The state after a cycle that leaves these registers and these calls: nothing else changes but the input ports, which go on
to the next record (R71). -/
def nextCycle (s : State) (r : Regs) (calls : List SinkCall) : State :=
  { s with regs := r, ports := s.pending.headD s.ports, pending := s.pending.tail, calls := calls }

/-- The step completes, the block's next registers are `r`, and the parameters stay. A register that `r` leaves as it is in
`s` keeps its value, so this is the frame of the registers too. -/
def StepsTo (s : State) (r : Regs) : Prop := ∃ t, step s = .next t ∧ t.regs = r ∧ t.params = s.params

/-! ### Invariants -/

/-- The invariants of R32 for the registers, with the bounds that R19 puts on `err_bit` and `cyc`. -/
structure RegInv (p : Params) (r : Regs) : Prop where
  bitIdx_le      : r.bitIdx.toNat ≤ 59
  errBit_le      : r.errBit.toNat ≤ 59
  cyc_idle       : r.st ≠ .high → r.st ≠ .low → r.cyc = 0
  cyc_high       : r.st = .high → r.cyc < hiLen p (symOf r)
  cyc_low        : r.st = .low → r.cyc < loLen p (symOf r)
  frame_built    : r.st = .high ∨ r.st = .low → ∃ smp : Sample, r.frame = buildSample smp
  status_clear   : r.err = false → r.errCode = .none ∧ r.errBit = 0#6
  status_set     : r.err = true → r.errCode = .ioConfig ∨ r.errCode = .transmit
  config_no_tag  : r.errCode = .ioConfig → r.errBit = 0#6
  cancel_running : r.cancel = true → r.st ≠ .idle
  line_held      : lineOf r = true → lineOeOf r = true

/-- The block runs by itself, and its registers meet R32. -/
def Inv (s : State) : Prop := s.queue = [] ∧ RegInv s.params s.regs

/-- What the sink knows from the calls so far: whether the handle is held, and the level last set since. -/
structure SinkView where
  held  : Bool
  level : Bool
  deriving DecidableEq, Repr

/-- The view after one more call, or none where the order of R47, R131 and R133 is broken: `CONFIGURE` only when the handle is
free, `SET` only when it is held and never high twice running, `RELEASE` only when it is held and the last level is low; and
`CONFIGURE` and `RELEASE` show a low line (R60). -/
def SinkView.after (v : SinkView) (c : SinkCall) : Option SinkView :=
  match c.op with
  | .none => none
  | .configure => if !v.held && !c.level then some { held := true, level := false } else none
  | .set => if v.held && !(v.level && c.level) then some { held := true, level := c.level } else none
  | .release => if v.held && !v.level && !c.level then some { held := false, level := false } else none

/-- The view after a log of calls, newest first; none where the order is broken somewhere. -/
def sinkView : List SinkCall → Option SinkView
  | [] => some { held := false, level := false }
  | c :: older => (sinkView older).bind (·.after c)

/-- What the sink must know in each state of the block. -/
def SinkAgrees (r : Regs) (v : SinkView) : Prop :=
  match r.st with
  | .idle | .config => v.held = false ∧ v.level = false
  | .high => v.held = true ∧ (v.level = true ↔ r.cyc ≠ 0)
  | .low => v.held = true ∧ (v.level = true ↔ r.cyc = 0)
  | .abort => v.held = true
  | .rel => v.held = true ∧ v.level = false

/-- No reset is presented now or later: the exception R133 makes. -/
def NoReset (s : State) : Prop := s.ports.rst = false ∧ ∀ i ∈ s.pending, i.rst = false

/-- The sink's calls are in order and agree with the state of the block. -/
def SinkInOrder (s : State) : Prop := ∃ v, sinkView s.calls = some v ∧ SinkAgrees s.regs v

/-! ### Runs of the block by itself -/

/-- The input record of the `k`-th cycle from now: the ports, then the pending records, then the last one held (R71). -/
def inputAt : Nat → Inputs → List Inputs → Inputs
  | 0, ports, _ => ports
  | k + 1, ports, pending => inputAt k (pending.headD ports) pending.tail

/-- The input record of the `k`-th cycle from the present one of `s`. -/
def inputOf (s : State) (k : Nat) : Inputs := inputAt k s.ports s.pending

/-- After `k` steps from `s` the machine is in a state whose registers have the property. -/
def After (k : Nat) (s : State) (P : Regs → Prop) : Prop :=
  ∃ t, Sys2Proof.core.run k s = .next t ∧ P t.regs

/-- The cycles that end with a `begin_frame` edge, the three places of R125 (R126, R113, R150). -/
def BeginsFrame (s : State) : Prop :=
  (s.regs.st = .config ∧ s.ports.sinkFault = false ∧ cancelReq s.regs s.ports = false) ∨
  (s.regs.st = .low ∧ s.regs.cyc = loLen s.params (symOf s.regs) - 1 ∧ s.regs.bitIdx = 59#6 ∧
    cancelReq s.regs s.ports = false) ∨
  (s.regs.st = .abort ∧ s.params.retryOnIoErr = true ∧ cancelReq s.regs s.ports = false)

/-- The cycles in which the sink's answer is read and is a failure (R143). -/
def FaultRead (s : State) : Prop :=
  s.ports.sinkFault = true ∧
    (s.regs.st = .config ∨ (s.regs.st = .high ∧ s.regs.cyc = 0) ∨ (s.regs.st = .low ∧ s.regs.cyc = 0))

/-- Two frames that differ in marker slots only, the positions that are never sent (R107). -/
def SameOffMarkers (f g : Frame) : Prop := ∀ i, i < 60 → i % 10 ≠ 0 → f.getLsbD i = g.getLsbD i

end Sys2Proof.Safety
end

