-- ==== Sys2Proof/Certificates/Slice0/Obligations.lean ====
section
/-! DEFINITION. The statements for the provers, from the numbered rules of the spec. A statement about one cycle of the block
running by itself has the hypothesis `s.queue = []`. The fields of State that are the model's own appear as follows: the results
of the functional layer stand in `func` (log 2), words to be run in `queue` (log 3), the ports go on to the next input record at
the end of a cycle (log 4), the sink's calls are logged (log 9). `nextCycle` fixes every one of them; `StepsTo` speaks of the
registers of the block alone, the whole of the spec's state. -/

open Sys2Proof Sys2Proof.Machine Sys2Proof.Safety

/-! ### The BCD encoder -/

/-- R73 to R78: at every positive width the field is the one that the document's five steps give, and has that width. -/
def Obligations.EncodeFollowsTheFiveSteps : Prop :=
  ∀ value width : Nat, 0 < width →
    bcdEncode value width = encodeBySteps value width ∧ (bcdEncode value width).length = width

/-- The model's choice (logs 1, 2): `ENCODE` completes at every positive width in every state, and delivers the field; it changes
nothing else. At width 0, where the function is not defined, it stops (log 12). -/
def Obligations.EncodeDeliversTheField : Prop :=
  (∀ (value width : Nat) (s : State), 0 < width →
    exec (.encode value width) s = .next { s with func := { s.func with bits := encodeBySteps value width } }) ∧
  ∀ (value : Nat) (s : State), exec (.encode value 0) s = .refused .encodeWidthZero

/-- R82 (a), R81 and R83: the field of a value is that of its low `n` digits, so a value too large for its field loses the others
(R80); `ENCODE` completes at every positive width and no register changes, so no error is recorded, which as an operation run
by a step is the model's choice (log 1); and no port value is too large for its field. -/
def Obligations.EncodeTruncatesInSilence : Prop :=
  (∀ value width : Nat, bcdEncode value width = bcdEncode (value % 10 ^ digitCount width) width) ∧
  (∀ (value width : Nat) (s : State), 0 < width → ∃ t, exec (.encode value width) s = .next t ∧ t.regs = s.regs) ∧
  ∀ smp : Sample, bcdOverflow smp.sec.toNat 8 = false ∧ bcdOverflow smp.min.toNat 8 = false ∧
    bcdOverflow smp.hour.toNat 8 = false ∧ bcdOverflow smp.doy.toNat 17 = false

/-- R84: decoding an encoded value gives it back exactly where the rule says: at a width that is a multiple of 4 for the values
that fit and no others, at another width for the values whose first digit fits the surviving bits and no others; and the
document's two examples. -/
def Obligations.EncodedValuesReadBack : Prop :=
  (∀ n value, 0 < n → (bcdDecode n (bcdEncode value (4 * n)) = value ↔ value < 10 ^ n)) ∧
  (∀ width value, width % 4 ≠ 0 →
    (bcdDecode (digitCount width) (padToNibbles (bcdEncode value width)) = value ↔
      value < 2 ^ (width % 4) * 10 ^ (digitCount width - 1))) ∧
  bcdEncode 0 8 = List.replicate 8 false ∧
  bcdEncode 59 8 = [false, true, false, true, true, false, false, true]

/-- R54, R76: every digit operation completes and delivers the nibble of its digit, most significant bit first; it changes
nothing else (logs 1, 2). -/
def Obligations.DigitsDeliverTheirNibbles : Prop :=
  ∀ s : State,
    exec .digit0 s = .next { s with func := { s.func with bits := [false, false, false, false] } } ∧
    exec .digit1 s = .next { s with func := { s.func with bits := [false, false, false, true] } } ∧
    exec .digit2 s = .next { s with func := { s.func with bits := [false, false, true, false] } } ∧
    exec .digit3 s = .next { s with func := { s.func with bits := [false, false, true, true] } } ∧
    exec .digit4 s = .next { s with func := { s.func with bits := [false, true, false, false] } } ∧
    exec .digit5 s = .next { s with func := { s.func with bits := [false, true, false, true] } } ∧
    exec .digit6 s = .next { s with func := { s.func with bits := [false, true, true, false] } } ∧
    exec .digit7 s = .next { s with func := { s.func with bits := [false, true, true, true] } } ∧
    exec .digit8 s = .next { s with func := { s.func with bits := [true, false, false, false] } } ∧
    exec .digit9 s = .next { s with func := { s.func with bits := [true, false, false, true] } }

/-! ### The frame builder -/

/-- R94: the frame that `build` returns is that of the table, index by index, at all integers; and `BUILD` completes and
delivers it for its sample, and changes nothing else (logs 1, 2). -/
def Obligations.BuildBitByBit : Prop :=
  (∀ (smp : Sample) (s : State), ∃ f : Frame,
    exec (.build smp) s = .next { s with func := { s.func with frame := f } } ∧
    ∀ i, i < 60 → f.getLsbD i = frameTable smp.sec.toNat smp.min.toNat smp.hour.toNat smp.doy.toNat i) ∧
  ∀ sec min hour doy i, i < 60 → (build sec min hour doy).getLsbD i = frameTable sec min hour doy i

/-- R88 to R92: how each field is written to a working sequence, for every value: element 0 of the encoded sequence goes to the
lowest index, every other slot keeps its value, and the day-of-year field fills 30 to 46 and pads 47 and 48 with 0. -/
def Obligations.FieldsAreWrittenElementZeroFirst : Prop :=
  ∀ (f : Frame) (x i : Nat), i < 60 →
    (putSeconds f (bcdEncode x 8)).getLsbD i =
      (if 1 ≤ i ∧ i ≤ 8 then (bcdEncode x 8).getD (i - 1) false else f.getLsbD i) ∧
    (putMinutes f (bcdEncode x 8)).getLsbD i =
      (if 10 ≤ i ∧ i ≤ 17 then (bcdEncode x 8).getD (i - 10) false else f.getLsbD i) ∧
    (putHours f (bcdEncode x 8)).getLsbD i =
      (if 20 ≤ i ∧ i ≤ 27 then (bcdEncode x 8).getD (i - 20) false else f.getLsbD i) ∧
    (putDoy f (bcdEncode x 17)).getLsbD i =
      (if 30 ≤ i ∧ i ≤ 46 then (bcdEncode x 17).getD (i - 30) false
       else if i = 47 ∨ i = 48 then false else f.getLsbD i)

/-- The model's choice (logs 1, 2): each field operation completes in every state, writes the encoded value of its digits to the
slots that R89 to R92 give it in the frame held in `func`, and changes no other slot and nothing else. -/
def Obligations.FieldsWriteTheirSlots : Prop :=
  (∀ (t u : Digit) (s : State), ∃ f : Frame,
    exec (.fieldSec t u) s = .next { s with func := { s.func with frame := f } } ∧
    ∀ i, i < 60 → f.getLsbD i =
      if 1 ≤ i ∧ i ≤ 8 then (bcdEncode (10 * t.val + u.val) 8).getD (i - 1) false else s.func.frame.getLsbD i) ∧
  (∀ (t u : Digit) (s : State), ∃ f : Frame,
    exec (.fieldMin t u) s = .next { s with func := { s.func with frame := f } } ∧
    ∀ i, i < 60 → f.getLsbD i =
      if 10 ≤ i ∧ i ≤ 17 then (bcdEncode (10 * t.val + u.val) 8).getD (i - 10) false else s.func.frame.getLsbD i) ∧
  (∀ (t u : Digit) (s : State), ∃ f : Frame,
    exec (.fieldHour t u) s = .next { s with func := { s.func with frame := f } } ∧
    ∀ i, i < 60 → f.getLsbD i =
      if 20 ≤ i ∧ i ≤ 27 then (bcdEncode (10 * t.val + u.val) 8).getD (i - 20) false else s.func.frame.getLsbD i) ∧
  ∀ (p : Bool) (k h t u : Digit) (s : State), ∃ f : Frame,
    exec (.fieldDoy p k h t u) s = .next { s with func := { s.func with frame := f } } ∧
    ∀ i, i < 60 → f.getLsbD i =
      if 30 ≤ i ∧ i ≤ 46 then
        (bcdEncode (10000 * p.toNat + 1000 * k.val + 100 * h.val + 10 * t.val + u.val) 17).getD (i - 30) false
      else if i = 47 ∨ i = 48 then false else s.func.frame.getLsbD i

/-- R93: on the marked frame of steps 1 and 2, the four field operations together deliver what `build` gives for the values of
their digits, in the document's order and in the reverse order (logs 1, 2). -/
def Obligations.FieldsTogetherMakeTheBuiltFrame : Prop :=
  ∀ (s1 s0 m1 m0 h1 h0 : Digit) (d4 : Bool) (d3 d2 d1 d0 : Digit) (s : State), s.func.frame = 0x4010040100401#60 →
    (∃ a b c d, exec (.fieldSec s1 s0) s = .next a ∧ exec (.fieldMin m1 m0) a = .next b ∧
      exec (.fieldHour h1 h0) b = .next c ∧ exec (.fieldDoy d4 d3 d2 d1 d0) c = .next d ∧
      d.func.frame = build (10 * s1.val + s0.val) (10 * m1.val + m0.val) (10 * h1.val + h0.val)
        (10000 * d4.toNat + 1000 * d3.val + 100 * d2.val + 10 * d1.val + d0.val)) ∧
    ∃ a b c d, exec (.fieldDoy d4 d3 d2 d1 d0) s = .next a ∧ exec (.fieldHour h1 h0) a = .next b ∧
      exec (.fieldMin m1 m0) b = .next c ∧ exec (.fieldSec s1 s0) c = .next d ∧
      d.func.frame = build (10 * s1.val + s0.val) (10 * m1.val + m0.val) (10 * h1.val + h0.val)
        (10000 * d4.toNat + 1000 * d3.val + 100 * d2.val + 10 * d1.val + d0.val)

/-- The layout of R56: `FRAME` completes and delivers it: fields at 1, 10, 20 and 30, ones at 0 and 50, zeros elsewhere; that is
also how its word reads on `frame_o` (R40). It changes nothing else (logs 1, 2). That it does so for every contents of the four
fields, nibbles of 10 to 15 included, which `build` never writes, is the model's choice (log 17). -/
def Obligations.FrameLayoutBitByBit : Prop :=
  ∀ (sec min hour : BitVec 8) (doy : BitVec 17) (s : State), ∃ f : Frame,
    exec (.frame sec min hour doy) s = .next { s with func := { s.func with frame := f } } ∧
    (encode (.frame sec min hour doy)).args = [f.toNat] ∧
    ∀ i, i < 60 → f.getLsbD i =
      if i = 0 ∨ i = 50 then true
      else if 1 ≤ i ∧ i ≤ 8 then sec.getLsbD (i - 1)
      else if 10 ≤ i ∧ i ≤ 17 then min.getLsbD (i - 10)
      else if 20 ≤ i ∧ i ≤ 27 then hour.getLsbD (i - 20)
      else if 30 ≤ i ∧ i ≤ 46 then doy.getLsbD (i - 30)
      else false

/-- R70: `RENDER` completes and delivers 60 characters, `P` at the marker slots whatever is stored there, else the bit; and
the rule's example. It changes nothing else (logs 1, 2). -/
def Obligations.RenderCharacterByCharacter : Prop :=
  (∀ (f : Frame) (s : State), ∃ txt : List Char,
    exec (.render f) s = .next { s with func := { s.func with text := txt } } ∧ txt.length = 60 ∧
    ∀ i, i < 60 → txt[i]? = some (if i % 10 = 0 then 'P' else if f.getLsbD i = true then '1' else '0')) ∧
  render (build 9 0 0 1) = "P000010010P000000000P000000000P000000000P000001000P000000000".toList

/-- R97: the bits of a built frame that no port value changes, and one more that no valid day changes. -/
def Obligations.BuiltFramesHaveConstantBits : Prop :=
  ∀ smp : Sample,
    (buildSample smp).getLsbD 0 = true ∧ (buildSample smp).getLsbD 50 = true ∧
    (∀ i ∈ [9, 18, 19, 28, 29, 47, 48, 49, 51, 52, 53, 54, 55, 56, 57, 58, 59, 1, 10, 20, 21, 30, 31, 32, 33, 34, 35],
      (buildSample smp).getLsbD i = false) ∧
    (1 ≤ smp.doy.toNat → smp.doy.toNat ≤ 366 → (buildSample smp).getLsbD 36 = false)

/-- R96: two days that differ only in the weight-4 bit of the tens digit give frames that differ at index 40 only and have the
same symbol at every index. -/
def Obligations.DaysThatShareASignal : Prop :=
  ∀ sec min hour d e : Nat,
    (∀ q, q < 5 → q ≠ 1 → digit d q = digit e q) →
    (∀ k, k < 4 → ((digit d 1).testBit k = (digit e 1).testBit k ↔ k ≠ 2)) →
    ∀ i, i < 60 →
      sym (build sec min hour d) i = sym (build sec min hour e) i ∧
      ((build sec min hour d).getLsbD i = (build sec min hour e).getLsbD i ↔ i ≠ 40)

/-! ### The frame transmitter -/

/-- R101: `SYM` completes and delivers the symbol of the case analysis, the marker test first; it changes nothing
else (logs 1, 2). -/
def Obligations.SymTestsTheMarkerFirst : Prop :=
  ∀ (f : Frame) (i : Fin 60) (s : State),
    exec (.sym f i) s = .next { s with func := { s.func with
      symbol := some (if i.val % 10 = 0 then .mark else if f.getLsbD i.val = true then .one else .zero) } }

/-- R102, R103, R104, read as log 1 says: each symbol operation completes in every state, and in `HIGH` and `LOW`, with no reset and no failing
answer read, its cycle is one of a phase of its own length: 8 and 2 ticks, 5 and 5, 2 and 8. A cycle that is not the last of
the phase counts; the last of the high phase starts the low phase; the last of the low phase is the bit boundary. -/
def Obligations.SymbolsTimeTheirPhases : Prop :=
  ∀ (i : Instr) (h l : Nat) (s : State),
    ((∃ b, i = .symMark b) ∧ h = 8 ∧ l = 2) ∨ (i = .symOne ∧ h = 5 ∧ l = 5) ∨ (i = .symZero ∧ h = 2 ∧ l = 8) →
    ∃ t, exec i s = .next t ∧ t = nextCycle s t.regs (callsAfter s.regs s.calls) ∧
      (s.ports.rst = false → ¬ FaultRead s →
        (s.regs.st = .high → s.regs.cyc < h * s.params.tickDiv - 1 →
          t.regs = { s.regs with cyc := s.regs.cyc + 1, cancel := s.regs.cancel || s.ports.stop, done := false }) ∧
        (s.regs.st = .high → s.regs.cyc = h * s.params.tickDiv - 1 →
          t.regs = { s.regs with st := .low, cyc := 0, cancel := s.regs.cancel || s.ports.stop, done := false }) ∧
        (s.regs.st = .low → s.regs.cyc < l * s.params.tickDiv - 1 →
          t.regs = { s.regs with cyc := s.regs.cyc + 1, cancel := s.regs.cancel || s.ports.stop, done := false }) ∧
        (s.regs.st = .low → s.regs.cyc = l * s.params.tickDiv - 1 → t.regs.st ≠ .low ∧ t.regs.cyc = 0))

/-- R105: the high and the low phase of a bit, in clock cycles, for each symbol; together they last `10 * TICK_DIV`. -/
def Obligations.PhasesSumToOneBit : Prop :=
  ∀ (p : Params) (f : Frame) (i : Nat),
    hiLen p (sym f i) = (match sym f i with | .mark => 8 | .one => 5 | .zero => 2) * p.tickDiv ∧
    loLen p (sym f i) = (match sym f i with | .mark => 2 | .one => 5 | .zero => 8) * p.tickDiv ∧
    hiLen p (sym f i) + loLen p (sym f i) = 10 * p.tickDiv ∧
    2 * p.tickDiv ≤ hiLen p (sym f i) ∧ 2 * p.tickDiv ≤ loLen p (sym f i) ∧ 2 ≤ 2 * p.tickDiv

/-- R107: what is stored in the marker slots never reaches the line: two runs whose frames differ in marker slots only agree in
everything else, at every later cycle. -/
def Obligations.MarkerBitsNeverReachTheLine : Prop :=
  ∀ (k : Nat) (s : State) (g : Frame), s.queue = [] → SameOffMarkers s.regs.frame g →
    ∃ t h, Sys2Proof.core.run k s = .next t ∧
      Sys2Proof.core.run k { s with regs := { s.regs with frame := g } } =
        .next { t with regs := { t.regs with frame := h } } ∧
      SameOffMarkers t.regs.frame h ∧ (out t.regs).line = (out { t.regs with frame := h }).line

/-! ### One cycle of the block -/

/-- 44 section 4: a step of the block running by itself is the listing's step, in every state and for every input; in
particular it always completes. -/
def Obligations.StepIsTheListing : Prop :=
  ∀ s : State, s.queue = [] →
    step s = .next (nextCycle s (listing s.params s.regs s.ports) (callsAfter s.regs s.calls))

/-- R59, read as log 1 says: a command operation completes in every state, and is the cycle in which `start_i` and `stop_i` have its levels. -/
def Obligations.CommandsAreTheInputLevels : Prop :=
  ∀ (i : Instr) (start stop : Bool) (s : State),
    (i = .cmdNop ∧ start = false ∧ stop = false) ∨ (i = .cmdStart ∧ start = true ∧ stop = false) ∨
      (i = .cmdStop start ∧ stop = true) →
    exec i s = .next (nextCycle s (listing s.params s.regs { s.ports with start := start, stop := stop })
      (callsAfter s.regs s.calls))

/-- R61 and 44 section 4, read as log 1 says: a state operation completes in every state, and is the listing's branch for the state it names. -/
def Obligations.StatesAreTheListingsBranches : Prop :=
  ∀ (i : Instr) (st : St) (s : State),
    (i = .stIdle ∧ st = .idle) ∨ (i = .stConfig ∧ st = .config) ∨ (i = .stHigh ∧ st = .high) ∨
      (i = .stLow ∧ st = .low) ∨ (i = .stAbort ∧ st = .abort) ∨ (i = .stRel ∧ st = .rel) →
    exec i s = .next (nextCycle s (listing s.params { s.regs with st := st } s.ports)
      (callsAfter { s.regs with st := st } s.calls))

/-- R60 and R143, read as logs 1 and 15 say: a sink operation completes in every state; the sink is asked for it, with the level of `line_o`, and its
answer is read if it is the operation the block shows in this cycle, else not. -/
def Obligations.SinkOperationsAreAskedAndAnswered : Prop :=
  ∀ (i : Instr) (op : SinkOp) (s : State),
    (i = .sinkNone ∧ op = .none) ∨ (i = .sinkConfigure ∧ op = .configure) ∨ (i = .sinkSet ∧ op = .set) ∨
      (i = .sinkRelease ∧ op = .release) →
    exec i s = .next (nextCycle s
      (listing s.params s.regs { s.ports with sinkFault := s.ports.sinkFault && decide (op = sinkOpOf s.regs) })
      (if op = .none then s.calls else { op := op, level := decide (s.regs.st = .high) } :: s.calls))

/-- R145, R146 and R12, read as logs 1 and 10 say: `ERR.IO_CONFIG` and `ERR.TRANSMIT` complete in every state with the register writes that raising the
error makes; `ERR.NONE` completes with the cycle in which no error is raised. Reset comes first (R156). -/
def Obligations.ErrorsAreRaised : Prop :=
  ∀ s : State,
    exec .errNone s = .next (nextCycle s (listing s.params s.regs { s.ports with sinkFault := false })
      (callsAfter s.regs s.calls)) ∧
    exec .errIoConfig s = .next (nextCycle s
      (if s.ports.rst = true then Regs.reset
       else { s.regs with err := true, errCode := .ioConfig, errBit := 0#6, st := .rel,
                          cancel := s.regs.cancel || s.ports.stop, done := false })
      (callsAfter s.regs s.calls)) ∧
    exec .errTransmit s = .next (nextCycle s
      (if s.ports.rst = true then Regs.reset
       else { s.regs with err := true, errCode := .transmit, errBit := s.regs.bitIdx, st := .abort, cyc := 0,
                          cancel := s.regs.cancel || s.ports.stop, done := false })
      (callsAfter s.regs s.calls))

/-- R141, R142 and R68: the two reserved codes are never raised: their operations stop (log 11), and no step of the block writes
them. -/
def Obligations.ReservedErrorsAreNeverRaised : Prop :=
  ∀ s : State,
    exec .errEncoding s = .refused (.reservedErrorCode .encoding) ∧
    exec .errInvariant s = .refused (.reservedErrorCode .invariant) ∧
    ∀ t, s.queue = [] → step s = .next t →
      t.regs.errCode = s.regs.errCode ∨ t.regs.errCode = .none ∨ t.regs.errCode = .ioConfig ∨ t.regs.errCode = .transmit

/-- R166: with `rst_i = 1` the next registers are the reset values, whatever the state and the other inputs. -/
def Obligations.ResetOverridesEverything : Prop :=
  ∀ s : State, s.queue = [] → s.ports.rst = true →
    StepsTo s { st := .idle, frame := 0#60, bitIdx := 0#6, cyc := 0, cancel := false, err := false, errCode := .none,
                errBit := 0#6, done := false }

/-- R166 and R156, read as log 1 says: whichever command, state code, symbol, sink operation or error stands in a cycle with
`rst_i = 1`, the operation completes and the next registers are the reset values. The exception is the two reserved error codes:
`ERR.ENCODING` and `ERR.INVARIANT` are not in the list, since they stop in every state, with `rst_i = 1` too (log 11). -/
def Obligations.EveryWordYieldsToReset : Prop :=
  ∀ (i : Instr) (s : State), s.ports.rst = true →
    i ∈ [.symMark false, .symMark true, .symOne, .symZero, .cmdNop, .cmdStart, .cmdStop false, .cmdStop true, .sinkNone,
      .sinkConfigure, .sinkSet, .sinkRelease, .stIdle, .stConfig, .stHigh, .stLow, .stAbort, .stRel, .errNone, .errIoConfig,
      .errTransmit] →
    ∃ t, exec i s = .next t ∧ t.regs = Regs.reset

/-- 70 section 1: in the reset state every output is 0, and its frame is one that `build` never returns. -/
def Obligations.ResetStateShowsZeros : Prop :=
  out State.reset.regs =
    { line := false, lineOe := false, sinkOp := 0#2, busy := false, frame := 0#60, bitIdx := 0#6, frameStart := false,
      done := false, err := false, errCode := 0#3, errBit := 0#6 } ∧
  State.reset.regs = { st := .idle, frame := 0#60, bitIdx := 0#6, cyc := 0, cancel := false, err := false,
                       errCode := .none, errBit := 0#6, done := false } ∧
  ∀ smp : Sample, buildSample smp ≠ State.reset.regs.frame

/-- R121: a start is accepted in `IDLE` when `start_i = 1` and `stop_i = 0`. -/
def Obligations.IdleAcceptsAStart : Prop :=
  ∀ s : State, s.regs.st = .idle → s.ports.rst = false → s.queue = [] → s.ports.start = true → s.ports.stop = false →
    StepsTo s { s.regs with st := .config, err := false, errCode := .none, errBit := 0#6, cancel := false, done := false }

/-- R122: otherwise `IDLE` forgets a cancellation and keeps the rest, and shows no handle, a low line and no operation. -/
def Obligations.IdleOtherwiseForgetsACancellation : Prop :=
  ∀ s : State, s.regs.st = .idle → s.ports.rst = false → s.queue = [] → ¬ (s.ports.start = true ∧ s.ports.stop = false) →
    StepsTo s { s.regs with cancel := false, done := false } ∧
    (out s.regs).lineOe = false ∧ (out s.regs).line = false ∧ (out s.regs).sinkOp = 0b00#2

/-- R145: a failing `CONFIGURE` is recorded with code 2 and tag 0, a `stop_i` of the cycle is latched, and the handle is released
in the next cycle; the frame keeps its value, no `SET` is issued, and the retry parameter does not matter. -/
def Obligations.ConfigureErrorIsTaken : Prop :=
  ∀ s : State, s.regs.st = .config → s.ports.rst = false → s.queue = [] → s.ports.sinkFault = true →
    let n := { s.regs with err := true, errCode := .ioConfig, errBit := 0#6, st := .rel,
                           cancel := s.regs.cancel || s.ports.stop, done := false }
    StepsTo s n ∧ (out s.regs).sinkOp = 0b01#2 ∧ (out n).sinkOp = 0b11#2

/-- R124: `CONFIG` with a cancellation requested sends no bit and releases. -/
def Obligations.ConfigCancelledReleases : Prop :=
  ∀ s : State, s.regs.st = .config → s.ports.rst = false → s.queue = [] → s.ports.sinkFault = false →
    (s.regs.cancel = true ∨ s.ports.stop = true) →
    let n := { s.regs with st := .rel, cancel := true, done := false }
    StepsTo s n ∧ (out s.regs).sinkOp = 0b01#2 ∧ (out n).sinkOp = 0b11#2

/-- R126: otherwise `CONFIG` samples the time inputs, builds the frame and starts bit 0, in one edge, with no cancellation
pending. -/
def Obligations.ConfigBeginsTheFirstFrame : Prop :=
  ∀ s : State, s.regs.st = .config → s.ports.rst = false → s.queue = [] → s.ports.sinkFault = false →
    s.regs.cancel = false → s.ports.stop = false →
    StepsTo s { s.regs with
      frame := build s.ports.tsSec.toNat s.ports.tsMin.toNat s.ports.tsHour.toNat s.ports.tsDoy.toNat,
      bitIdx := 0#6, st := .high, cyc := 0, cancel := false, done := false }

/-- R110, R111: `HIGH` with no failing answer read counts, and in its last cycle goes to `LOW`, whose first cycle shows `SET` with
a low line; `frame` and `bit_idx` stay and a pending cancellation is not honoured. -/
def Obligations.HighPhaseCountsAndEnds : Prop :=
  ∀ s : State, s.regs.st = .high → s.ports.rst = false → s.queue = [] → ¬ FaultRead s →
    (s.regs.cyc < hiLen s.params (symOf s.regs) - 1 →
      StepsTo s { s.regs with cyc := s.regs.cyc + 1, cancel := s.regs.cancel || s.ports.stop, done := false }) ∧
    (s.regs.cyc = hiLen s.params (symOf s.regs) - 1 →
      let n := { s.regs with st := .low, cyc := 0, cancel := s.regs.cancel || s.ports.stop, done := false }
      StepsTo s n ∧ (out n).sinkOp = 0b10#2 ∧ (out n).line = false)

/-- R112: `LOW` with no failing answer read, before its last cycle, counts. -/
def Obligations.LowPhaseCounts : Prop :=
  ∀ s : State, s.regs.st = .low → s.ports.rst = false → s.queue = [] → ¬ FaultRead s →
    s.regs.cyc < loLen s.params (symOf s.regs) - 1 →
    StepsTo s { s.regs with cyc := s.regs.cyc + 1, cancel := s.regs.cancel || s.ports.stop, done := false }

/-- R113: the last cycle of a low phase: a requested cancellation is honoured, else after bit 59 the next frame begins with no
gap, else the next bit; `done` is 1 after bit 59 in all three cases. (No failing answer is read there: no phase is shorter than
two cycles.) -/
def Obligations.BitBoundaryChooses : Prop :=
  ∀ s : State, s.regs.st = .low → s.ports.rst = false → s.queue = [] →
    s.regs.cyc = loLen s.params (symOf s.regs) - 1 →
    let req := s.regs.cancel || s.ports.stop
    (req = true →
      StepsTo s { s.regs with st := .rel, cyc := 0, cancel := true, done := decide (s.regs.bitIdx = 59#6) }) ∧
    (req = false → s.regs.bitIdx = 59#6 →
      StepsTo s { s.regs with
        frame := build s.ports.tsSec.toNat s.ports.tsMin.toNat s.ports.tsHour.toNat s.ports.tsDoy.toNat,
        bitIdx := 0#6, st := .high, cyc := 0, cancel := false, done := true }) ∧
    (req = false → s.regs.bitIdx ≠ 59#6 →
      StepsTo s { s.regs with bitIdx := s.regs.bitIdx + 1#6, st := .high, cyc := 0, cancel := false, done := false })

/-- R146: a failing `SET` of `HIGH` or `LOW` is recorded with code 3 and the bit index, and the transmission aborts; `frame` and
`bit_idx` stay, and a `stop_i` in the same cycle is latched. -/
def Obligations.AbortEntryRecordsTheBit : Prop :=
  ∀ s : State, (s.regs.st = .high ∨ s.regs.st = .low) → s.regs.cyc = 0 → s.ports.sinkFault = true →
    s.ports.rst = false → s.queue = [] →
    StepsTo s { s.regs with err := true, errCode := .transmit, errBit := s.regs.bitIdx, st := .abort, cyc := 0,
                            cancel := s.regs.cancel || s.ports.stop, done := false }

/-- R150: `ABORT` begins a new frame where the instance retries and no cancellation is requested, else releases; the error status
stays. -/
def Obligations.AbortRetriesOrReleases : Prop :=
  ∀ s : State, s.regs.st = .abort → s.ports.rst = false → s.queue = [] →
    let req := s.regs.cancel || s.ports.stop
    (s.params.retryOnIoErr = true ∧ req = false →
      StepsTo s { s.regs with
        frame := build s.ports.tsSec.toNat s.ports.tsMin.toNat s.ports.tsHour.toNat s.ports.tsDoy.toNat,
        bitIdx := 0#6, st := .high, cyc := 0, cancel := false, done := false }) ∧
    (¬ (s.params.retryOnIoErr = true ∧ req = false) →
      StepsTo s { s.regs with st := .rel, cancel := req, done := false })

/-- R130: `REL` releases the handle with a low line and returns to `IDLE`, whatever `stop_i` and `sink_fault_i` are. -/
def Obligations.ReleaseReturnsToIdle : Prop :=
  ∀ s : State, s.regs.st = .rel → s.ports.rst = false → s.queue = [] →
    StepsTo s { s.regs with st := .idle, cancel := false, done := false } ∧
    (out s.regs).sinkOp = 0b11#2 ∧ (out s.regs).lineOe = false ∧ (out s.regs).line = false

/-- R128: in `CONFIG`, `HIGH`, `LOW` and `ABORT` every cycle latches `stop_i`. -/
def Obligations.StopIsLatchedWhileRunning : Prop :=
  ∀ s : State, s.regs.st ∈ [.config, .high, .low, .abort] → s.ports.rst = false → s.queue = [] →
    ∃ t, step s = .next t ∧ t.regs.cancel = (s.regs.cancel || s.ports.stop)

/-- R134: `start_i` is read in `IDLE` only: elsewhere a step leaves the same registers with `start_i` at 1 and at 0. -/
def Obligations.StartIsIgnoredWhileBusy : Prop :=
  ∀ s : State, s.regs.st ≠ .idle → s.queue = [] →
    ∃ r, StepsTo { s with ports := { s.ports with start := false } } r ∧
      StepsTo { s with ports := { s.ports with start := true } } r

/-- R143: the sink's answer changes the next state, and so the outputs, in the three kinds of cycle the rule names and in no
other, and what it means there. -/
def Obligations.FaultIsReadOnlyWhereNamed : Prop :=
  ∀ s : State, s.queue = [] → s.ports.rst = false →
    (¬ (s.regs.st = .config ∨ (s.regs.st = .high ∧ s.regs.cyc = 0) ∨ (s.regs.st = .low ∧ s.regs.cyc = 0)) →
      ∃ r, StepsTo { s with ports := { s.ports with sinkFault := false } } r ∧
        StepsTo { s with ports := { s.ports with sinkFault := true } } r) ∧
    (FaultRead s → ∃ t, step s = .next t ∧ t.regs.err = true ∧
      t.regs.errCode = (if s.regs.st = .config then .ioConfig else .transmit) ∧
      (out s.regs).sinkOp = (if s.regs.st = .config then 0b01#2 else 0b10#2))

/-- R26: the error status is written by the two error entries, cleared by an accepted start and by reset, and sticky otherwise. -/
def Obligations.ErrorStatusIsSticky : Prop :=
  ∀ s : State, s.queue = [] → ∃ t, step s = .next t ∧
    (s.ports.rst = true → (t.regs.err, t.regs.errCode, t.regs.errBit) = (false, .none, 0#6)) ∧
    (s.ports.rst = false → FaultRead s → (t.regs.err, t.regs.errCode, t.regs.errBit) =
      if s.regs.st = .config then (true, .ioConfig, 0#6) else (true, .transmit, s.regs.bitIdx)) ∧
    (s.ports.rst = false → s.regs.st = .idle ∧ s.ports.start = true ∧ s.ports.stop = false →
      (t.regs.err, t.regs.errCode, t.regs.errBit) = (false, .none, 0#6)) ∧
    (s.ports.rst = false → ¬ FaultRead s → ¬ (s.regs.st = .idle ∧ s.ports.start = true ∧ s.ports.stop = false) →
      (t.regs.err, t.regs.errCode, t.regs.errBit) = (s.regs.err, s.regs.errCode, s.regs.errBit))

/-- R27: `done` is 1 after the last cycle of bit 59 and after no other cycle, and 0 after reset. -/
def Obligations.DoneMarksACompletedFrame : Prop :=
  ∀ s : State, s.queue = [] → ∃ t, step s = .next t ∧
    (s.ports.rst = true → t.regs.done = false) ∧
    (s.ports.rst = false → (t.regs.done = true ↔
      s.regs.st = .low ∧ s.regs.cyc = loLen s.params (symOf s.regs) - 1 ∧ s.regs.bitIdx = 59#6 ∧ ¬ FaultRead s))

/-- R125: the frame is written by `begin_frame` alone, whole, from the four time inputs of one cycle, together with the start of
bit 0, which the next cycle shows; and `begin_frame` happens in three places only. Elsewhere the time inputs do not matter. -/
def Obligations.FrameIsWrittenOnlyByBeginFrame : Prop :=
  ∀ s : State, s.queue = [] → s.ports.rst = false → ∃ t, step s = .next t ∧
    (BeginsFrame s → t.regs.frame = buildSample s.ports.sample ∧ t.regs.bitIdx = 0#6 ∧ t.regs.st = .high ∧
      t.regs.cyc = 0 ∧ (out t.regs).frameStart = true ∧ (out t.regs).line = true ∧ (out t.regs).sinkOp = 0b10#2) ∧
    (¬ BeginsFrame s → t.regs.frame = s.regs.frame ∧
      ∀ a b c d, StepsTo { s with ports := { s.ports with tsSec := a, tsMin := b, tsHour := c, tsDoy := d } } t.regs)

/-- R8: the layers stay apart. No operation changes the parameters; an operation of the functional layer changes no register,
no input and no call; one of the sequential layer changes no result of the functional layer and takes one input record. -/
def Obligations.LayersStayApart : Prop :=
  ∀ (i : Instr) (s t : State), exec i s = .next t →
    t.params = s.params ∧ t.queue = s.queue ∧
    ((encode i).place ∈ [.encode, .build, .render, .sym, .frame, .fieldSec, .fieldMin, .fieldHour, .fieldDoy, .digit] →
      t.regs = s.regs ∧ t.ports = s.ports ∧ t.pending = s.pending ∧ t.calls = s.calls) ∧
    ((encode i).place ∈ [.symsel, .cmd, .sinkop, .st, .err] →
      t.func = s.func ∧ t.ports = s.pending.headD s.ports ∧ t.pending = s.pending.tail)

/-- R29, R30 and R17: every output, from the registers alone. -/
def Obligations.OutputsFollowTheRegisters : Prop :=
  ∀ r : Regs,
    (out r).line = decide (r.st = .high) ∧
    (out r).lineOe = decide (r.st ∈ [.config, .high, .low, .abort]) ∧
    (out r).sinkOp =
      (if r.st = .config then 0b01#2
       else if ((r.st = .high ∨ r.st = .low) ∧ r.cyc = 0) ∨ r.st = .abort then 0b10#2
       else if r.st = .rel then 0b11#2 else 0b00#2) ∧
    (out r).busy = decide (r.st ≠ .idle) ∧
    (∀ i, i < 60 → (out r).frame.getLsbD i = r.frame.getLsbD i) ∧
    (out r).bitIdx = r.bitIdx ∧
    (out r).frameStart = decide (r.st = .high ∧ r.bitIdx = 0#6 ∧ r.cyc = 0) ∧
    (out r).done = r.done ∧ (out r).err = r.err ∧
    (out r).errCode = (match r.errCode with
      | .none => 0#3 | .encoding => 1#3 | .ioConfig => 2#3 | .transmit => 3#3 | .invariant => 4#3) ∧
    (out r).errBit = r.errBit

/-- R168: a reset while running cuts the bit at once: the line and the handle fall, the cancellation and the error status are
wiped, `done` is not set, and neither the cycle of the reset nor the next one issues a `RELEASE`. -/
def Obligations.ResetWhileRunningIssuesNoRelease : Prop :=
  ∀ s : State, s.queue = [] → s.ports.rst = true → s.regs.st ∈ [.config, .high, .low, .abort] →
    ∃ t, step s = .next t ∧ t.regs.st = .idle ∧ (out t.regs).line = false ∧ (out t.regs).lineOe = false ∧
      t.regs.cancel = false ∧ t.regs.err = false ∧ t.regs.errCode = .none ∧ t.regs.errBit = 0#6 ∧ t.regs.done = false ∧
      (out s.regs).sinkOp ≠ 0b11#2 ∧ (out t.regs).sinkOp ≠ 0b11#2

/-! ### Invariants -/

/-- R32: every step of the block keeps the invariants of the registers. -/
def Obligations.RegisterInvariantIsKept : Prop :=
  ∀ s t : State, Inv s → step s = .next t → Inv t

/-- R32: they hold at reset. -/
def Obligations.RegisterInvariantAtReset : Prop := Inv State.reset

/-- R47, R131 and R133: while no reset is presented, every step keeps the sink's calls in order: `CONFIGURE` and `RELEASE`
alternate, every `SET` lies between them, no two high levels follow each other, and the last level before a `RELEASE` is
low. -/
def Obligations.SinkCallsStayInOrder : Prop :=
  ∀ s t : State, Inv s → NoReset s → SinkInOrder s → step s = .next t → NoReset t ∧ SinkInOrder t

/-- The sink's calls are in order at reset. -/
def Obligations.SinkCallsInOrderAtReset : Prop := NoReset State.reset ∧ SinkInOrder State.reset

/-- R24: in every state that meets the invariants `cyc` is below `8 * TICK_DIV`, fits `CYC_W` bits, and is 0 outside the two
phases. -/
def Obligations.PhaseCounterFitsItsWidth : Prop :=
  ∀ s : State, Inv s →
    s.regs.cyc ≤ 8 * s.params.tickDiv - 1 ∧ s.regs.cyc < 2 ^ s.params.cycWidth ∧
    (s.regs.st ≠ .high → s.regs.st ≠ .low → s.regs.cyc = 0)

/-! ### Whole runs -/

/-- R114, R115: from the first cycle of a frame, with no reset, no stop and no failing answer read, the line is high for the
high phase of each bit and low for the rest, a `SET` stands in the first cycle of each phase, bit `i` takes the cycles from
`10 * TICK_DIV * i`, and after `600 * TICK_DIV` cycles the next frame begins with no gap. -/
def Obligations.WaveformOfAFrame : Prop :=
  ∀ s : State, s.queue = [] → s.regs.st = .high → s.regs.bitIdx = 0#6 → s.regs.cyc = 0 → s.regs.cancel = false →
    (∀ k, k < 600 * s.params.tickDiv →
      (inputOf s k).rst = false ∧ (inputOf s k).stop = false ∧
      (k % (10 * s.params.tickDiv) = 0 ∨
        k % (10 * s.params.tickDiv) = hiLen s.params (sym s.regs.frame (k / (10 * s.params.tickDiv))) →
          (inputOf s k).sinkFault = false)) →
    (∀ k, k < 600 * s.params.tickDiv → After k s fun r =>
      let i := k / (10 * s.params.tickDiv)
      let c := k % (10 * s.params.tickDiv)
      let h := hiLen s.params (sym s.regs.frame i)
      (out r).line = decide (c < h) ∧ (out r).sinkOp = (if c = 0 ∨ c = h then 0b10#2 else 0b00#2) ∧
      (out r).bitIdx.toNat = i ∧ r.frame = s.regs.frame) ∧
    After (600 * s.params.tickDiv) s fun r =>
      (out r).frameStart = true ∧ (out r).done = true ∧
      r.frame = buildSample (inputOf s (600 * s.params.tickDiv - 1)).sample

/-- R132: a cancellation seen in a bit is honoured at the end of that bit: the block is in `REL` after exactly the rest of the
bit, at most `10 * TICK_DIV` cycles, and the line is low from the start of the bit's low phase on (with no reset meanwhile and no
failing answer in the cycles where one is read: the present one if it is the first of its phase, and the first of the low
phase). -/
def Obligations.CancellationWithinOneBit : Prop :=
  ∀ s : State, Inv s → (s.regs.cancel = true ∨ s.ports.stop = true) →
    (∀ k, k < 10 * s.params.tickDiv → (inputOf s k).rst = false) →
    (s.regs.cyc = 0 → s.ports.sinkFault = false) →
    let h := hiLen s.params (symOf s.regs)
    let l := loLen s.params (symOf s.regs)
    (s.regs.st = .high → (inputOf s (h - s.regs.cyc)).sinkFault = false →
      h - s.regs.cyc + l ≤ 10 * s.params.tickDiv ∧
      (After (h - s.regs.cyc + l) s fun r => r.st = .rel ∧ r.bitIdx = s.regs.bitIdx ∧ r.cancel = true) ∧
      ∀ k, h - s.regs.cyc ≤ k → k ≤ h - s.regs.cyc + l → After k s fun r => (out r).line = false) ∧
    (s.regs.st = .low →
      l - s.regs.cyc ≤ 10 * s.params.tickDiv ∧
      (After (l - s.regs.cyc) s fun r => r.st = .rel ∧ r.bitIdx = s.regs.bitIdx ∧ r.cancel = true) ∧
      ∀ k, k ≤ l - s.regs.cyc → After k s fun r => (out r).line = false)

/-! ### Words -/

/-- The model's choice (log 1): in one cycle of the block several words stand in their places (the command on the inputs, the
code in `st`, the symbol selection of the bit, the operation on `sink_op_o`, the error raised); each is a word of its place,
and running any one of them is that cycle. -/
def Obligations.CycleRunsEveryWordInItsPlace : Prop :=
  ∀ s : State, s.queue = [] →
    ∀ w ∈ [word .cmd (s.ports.start.toNat * 2 + s.ports.stop.toNat),
           word .st s.regs.st.code.toNat,
           word .symsel ((if s.regs.bitIdx.toNat % 10 = 0 then 2 else 0) + (s.regs.frame.getLsbD s.regs.bitIdx.toNat).toNat),
           word .sinkop (sinkOpOf s.regs).code.toNat,
           word .err (causeNow s.regs s.ports).code.toNat],
      ∃ i, decode w = .ok i ∧ ∃ t, exec i s = .next t ∧ step s = .next t

/-- A step runs the decoded word: the head of the queue, taken off it, or with nothing queued the command on the inputs; a word
that does not decode is refused. So the word placed by `withFetchWord` is the next one run. -/
def Obligations.StepRunsTheDecodedWord : Prop :=
  (∀ (s : State) (i : Instr), s.queue = [] → decode (commandWord s.ports) = .ok i → step s = exec i s) ∧
  (∀ (s : State) (w : OpWord) (ws : List OpWord) (i : Instr), s.queue = w :: ws → decode w = .ok i →
    step s = exec i { s with queue := ws }) ∧
  (∀ (s : State) (w : OpWord) (ws : List OpWord) (e : DecodeError), s.queue = w :: ws → decode w = .error e →
    step s = .refused (.undecodable e)) ∧
  ∀ (s : State) (nbits w : Nat) (i : Instr), decodeTableWord nbits w = some i → step (s.withFetchWord nbits w) = exec i s

/-- Decoding the word of a well-formed instruction gives the instruction, with every operand at every value. -/
def Obligations.DecodeOfEncodeIsTheInstruction : Prop := ∀ i : Instr, i.wf = true → decode (encode i) = .ok i

/-- And a word that decodes is the word of what it decodes to: each word has one meaning, and it is well formed. -/
def Obligations.EncodeOfDecodeIsTheWord : Prop :=
  ∀ (w : OpWord) (i : Instr), decode w = .ok i → encode i = w ∧ i.wf = true

/-- Words written out from the encodings of the spec (R54, R55, R56, R58 to R63). -/
def Obligations.SpecWordsDecodeAsTheSpecSays : Prop :=
  decode (word .digit 0b1001) = .ok .digit9 ∧
  decode (word .fieldSec 0b01011001) = .ok (.fieldSec 5 9) ∧
  decode (word .fieldDoy 0b00000001101100110) = .ok (.fieldDoy false 0 3 6 6) ∧
  decode (word .symsel 0b10) = .ok (.symMark false) ∧
  decode (word .cmd 0b10) = .ok .cmdStart ∧
  decode (word .sinkop 0b01) = .ok .sinkConfigure ∧
  decode (word .st 0b101) = .ok .stRel ∧
  decode (word .err 0b011) = .ok .errTransmit ∧
  decode (word .build 0x3BEEF6E) = .ok (.build { sec := 59, min := 59, hour := 23, doy := 366 })

/-- The codes that R65 and R68 call unused are refused by name: a nibble of 10 to 15 wherever a whole digit stands, in `DIGIT` and
in every field (read from R65 by inference, log 14), and the unused codes of `ST` and `ERR` (93 U11; that a word of them is
refused is log 18). Every code of `SYMSEL`, `CMD` and `SINKOP` is a word of an instruction (R58, R59, R60). -/
def Obligations.UnusedCodesAreRefused : Prop :=
  (∀ n, 10 ≤ n → n < 16 → decode (word .digit n) = .error .notADigit) ∧
  (∀ n, n < 2 ^ 8 → 10 ≤ n / 2 ^ 4 ∨ 10 ≤ n % 2 ^ 4 →
    decode (word .fieldSec n) = .error .notADigit ∧ decode (word .fieldMin n) = .error .notADigit ∧
    decode (word .fieldHour n) = .error .notADigit) ∧
  (∀ n, n < 2 ^ 17 →
    10 ≤ n / 2 ^ 12 % 2 ^ 4 ∨ 10 ≤ n / 2 ^ 8 % 2 ^ 4 ∨ 10 ≤ n / 2 ^ 4 % 2 ^ 4 ∨ 10 ≤ n % 2 ^ 4 →
    decode (word .fieldDoy n) = .error .notADigit) ∧
  (∀ n, 6 ≤ n → n < 8 → decode (word .st n) = .error .unusedStateCode) ∧
  (∀ n, 5 ≤ n → n < 8 → decode (word .err n) = .error .unusedErrorCode) ∧
  ∀ n, n < 4 → (∃ i, decode (word .symsel n) = .ok i) ∧ (∃ i, decode (word .cmd n) = .ok i) ∧
    ∃ i, decode (word .sinkop n) = .ok i
end

