-- ==== Sys2Proof/Laws/Functional.lean ====
section
/-! SUPPORT. What the shared operations of the functional layer do, once each: a bit written, a field written, the length and
the elements of an encoded field, the lengths of the phases. -/

namespace Sys2Proof.Machine

/-- Writing one bit changes that bit only. -/
theorem putBit_getLsbD (f : Frame) (i k : Nat) (b : Bool) :
    (putBit f i b).getLsbD k = if k = i ∧ k < 60 then b else f.getLsbD k := by
  by_cases hk : k < 60
  · by_cases h : k = i
    · subst h; cases b <;> simp [putBit, hk]
    · cases b <;> simp [putBit, h, hk]
  · have hk' : 60 ≤ k := Nat.le_of_not_lt hk
    simp [hk, BitVec.getLsbD_of_ge _ k hk']

/-- A field lands at its slots, element `j` at `a + j`, and every other slot keeps its value (R88). -/
theorem writeField_getLsbD (bs : List Bool) (f : Frame) (a k : Nat) (hk : k < 60) :
    (writeField f a bs).getLsbD k =
      if a ≤ k ∧ k < a + bs.length then bs.getD (k - a) false else f.getLsbD k := by
  induction bs generalizing f a with
  | nil => simp [writeField]; omega
  | cons b bs ih =>
    rw [writeField, ih, putBit_getLsbD]
    by_cases h1 : a + 1 ≤ k ∧ k < a + 1 + bs.length
    · have h2 : a ≤ k ∧ k < a + (b :: bs).length := by simp; omega
      obtain ⟨m, hm⟩ : ∃ m, k - a = m + 1 := ⟨k - a - 1, by omega⟩
      have h3 : k - (a + 1) = m := by omega
      rw [if_pos h1, if_pos h2, hm, h3]; simp
    · by_cases h2 : k = a
      · subst h2; simp [hk]
      · have h3 : ¬ (a ≤ k ∧ k < a + (b :: bs).length) := by simp; omega
        rw [if_neg h1, if_neg h3]
        simp [h2]

@[simp] theorem bcdEncode_length (v w : Nat) : (bcdEncode v w).length = w := by simp [bcdEncode]

/-- Element `j` of an encoded field. -/
theorem bcdEncode_getD (v w j : Nat) (hj : j < w) :
    (bcdEncode v w).getD j false = (digit v ((w - 1 - j) / 4)).testBit ((w - 1 - j) % 4) := by
  simp [bcdEncode, List.getD_eq_getElem?_getD, hj]

@[simp] theorem nibble_length (d : Nat) : (nibble d).length = 4 := rfl

@[simp] theorem fieldElems_length {w : Nat} (v : BitVec w) : (fieldElems v).length = w := by simp [fieldElems]

theorem fieldElems_getD {w : Nat} (v : BitVec w) (j : Nat) : (fieldElems v).getD j false = v.getLsbD j := by
  by_cases hj : j < w
  · simp [fieldElems, List.getD_eq_getElem?_getD, hj]
  · have hj' : w ≤ j := Nat.le_of_not_lt hj
    simp [fieldElems, List.getD_eq_getElem?_getD, hj, BitVec.getLsbD_of_ge _ j hj']

@[simp] theorem render_length (f : Frame) : (render f).length = 60 := by simp [render, Config.frameLen]

/-- The marker slots hold 1 before the fields are written, the other slots 0 (R86, R87). -/
theorem markedFrame_getLsbD (k : Nat) (hk : k < 60) : markedFrame.getLsbD k = decide (k % 10 = 0) := by
  revert k; decide

theorem tickDiv_pos (p : Params) : 0 < p.tickDiv := Nat.succ_pos _

theorem hiTicks_bounds (y : Symbol) : 2 ≤ hiTicks y ∧ hiTicks y ≤ 8 := by cases y <;> decide

/-- No phase is shorter than two cycles (R105). -/
theorem two_le_hiLen (p : Params) (y : Symbol) : 2 ≤ hiLen p y := by
  have h1 := hiTicks_bounds y
  have h2 := tickDiv_pos p
  unfold hiLen; nlinarith

theorem two_le_loLen (p : Params) (y : Symbol) : 2 ≤ loLen p y := by
  have h1 := hiTicks_bounds y
  have h2 := tickDiv_pos p
  have h3 : 2 ≤ loTicks y := by unfold loTicks Config.bitTicks; omega
  unfold loLen; nlinarith

end Sys2Proof.Machine
end

