-- ==== Sys2Proof/Laws/State.lean ====
section
/-! SUPPORT. One lemma per field per update of the registers and of the state, so that no proof unfolds a record update. -/

namespace Sys2Proof.Machine

/-! `Regs.clearError` -/

@[simp] theorem Regs.clearError_st (r : Regs) : (r.clearError).st = r.st := rfl
@[simp] theorem Regs.clearError_frame (r : Regs) : (r.clearError).frame = r.frame := rfl
@[simp] theorem Regs.clearError_bitIdx (r : Regs) : (r.clearError).bitIdx = r.bitIdx := rfl
@[simp] theorem Regs.clearError_cyc (r : Regs) : (r.clearError).cyc = r.cyc := rfl
@[simp] theorem Regs.clearError_cancel (r : Regs) : (r.clearError).cancel = r.cancel := rfl
@[simp] theorem Regs.clearError_err (r : Regs) : (r.clearError).err = false := rfl
@[simp] theorem Regs.clearError_errCode (r : Regs) : (r.clearError).errCode = .none := rfl
@[simp] theorem Regs.clearError_errBit (r : Regs) : (r.clearError).errBit = 0#6 := rfl
@[simp] theorem Regs.clearError_done (r : Regs) : (r.clearError).done = r.done := rfl

/-! `Regs.recordError` -/

@[simp] theorem Regs.recordError_st (r : Regs) (c : ErrCode) (b : BitIdx) : (r.recordError c b).st = r.st := rfl
@[simp] theorem Regs.recordError_frame (r : Regs) (c : ErrCode) (b : BitIdx) : (r.recordError c b).frame = r.frame := rfl
@[simp] theorem Regs.recordError_bitIdx (r : Regs) (c : ErrCode) (b : BitIdx) : (r.recordError c b).bitIdx = r.bitIdx := rfl
@[simp] theorem Regs.recordError_cyc (r : Regs) (c : ErrCode) (b : BitIdx) : (r.recordError c b).cyc = r.cyc := rfl
@[simp] theorem Regs.recordError_cancel (r : Regs) (c : ErrCode) (b : BitIdx) : (r.recordError c b).cancel = r.cancel := rfl
@[simp] theorem Regs.recordError_err (r : Regs) (c : ErrCode) (b : BitIdx) : (r.recordError c b).err = true := rfl
@[simp] theorem Regs.recordError_errCode (r : Regs) (c : ErrCode) (b : BitIdx) : (r.recordError c b).errCode = c := rfl
@[simp] theorem Regs.recordError_errBit (r : Regs) (c : ErrCode) (b : BitIdx) : (r.recordError c b).errBit = b := rfl
@[simp] theorem Regs.recordError_done (r : Regs) (c : ErrCode) (b : BitIdx) : (r.recordError c b).done = r.done := rfl

/-! `Regs.beginFrame` -/

@[simp] theorem Regs.beginFrame_st (r : Regs) (i : Inputs) : (r.beginFrame i).st = .high := rfl
@[simp] theorem Regs.beginFrame_frame (r : Regs) (i : Inputs) : (r.beginFrame i).frame = buildSample i.sample := rfl
@[simp] theorem Regs.beginFrame_bitIdx (r : Regs) (i : Inputs) : (r.beginFrame i).bitIdx = 0#6 := rfl
@[simp] theorem Regs.beginFrame_cyc (r : Regs) (i : Inputs) : (r.beginFrame i).cyc = 0 := rfl
@[simp] theorem Regs.beginFrame_cancel (r : Regs) (i : Inputs) : (r.beginFrame i).cancel = r.cancel := rfl
@[simp] theorem Regs.beginFrame_err (r : Regs) (i : Inputs) : (r.beginFrame i).err = r.err := rfl
@[simp] theorem Regs.beginFrame_errCode (r : Regs) (i : Inputs) : (r.beginFrame i).errCode = r.errCode := rfl
@[simp] theorem Regs.beginFrame_errBit (r : Regs) (i : Inputs) : (r.beginFrame i).errBit = r.errBit := rfl
@[simp] theorem Regs.beginFrame_done (r : Regs) (i : Inputs) : (r.beginFrame i).done = r.done := rfl

/-! `takeError` -/

@[simp] theorem takeError_st (r : Regs) (i : Inputs) (c : ErrCode) (b : BitIdx) (t : St) : (takeError r i c b t).st = t := rfl
@[simp] theorem takeError_frame (r : Regs) (i : Inputs) (c : ErrCode) (b : BitIdx) (t : St) : (takeError r i c b t).frame = r.frame := rfl
@[simp] theorem takeError_bitIdx (r : Regs) (i : Inputs) (c : ErrCode) (b : BitIdx) (t : St) : (takeError r i c b t).bitIdx = r.bitIdx := rfl
@[simp] theorem takeError_cyc (r : Regs) (i : Inputs) (c : ErrCode) (b : BitIdx) (t : St) : (takeError r i c b t).cyc = r.cyc := rfl
@[simp] theorem takeError_cancel (r : Regs) (i : Inputs) (c : ErrCode) (b : BitIdx) (t : St) : (takeError r i c b t).cancel = cancelReq r i := rfl
@[simp] theorem takeError_err (r : Regs) (i : Inputs) (c : ErrCode) (b : BitIdx) (t : St) : (takeError r i c b t).err = true := rfl
@[simp] theorem takeError_errCode (r : Regs) (i : Inputs) (c : ErrCode) (b : BitIdx) (t : St) : (takeError r i c b t).errCode = c := rfl
@[simp] theorem takeError_errBit (r : Regs) (i : Inputs) (c : ErrCode) (b : BitIdx) (t : St) : (takeError r i c b t).errBit = b := rfl
@[simp] theorem takeError_done (r : Regs) (i : Inputs) (c : ErrCode) (b : BitIdx) (t : St) : (takeError r i c b t).done = false := rfl

/-! `raiseConfigError` -/

@[simp] theorem raiseConfigError_st (r : Regs) (i : Inputs) : (raiseConfigError r i).st = .rel := rfl
@[simp] theorem raiseConfigError_frame (r : Regs) (i : Inputs) : (raiseConfigError r i).frame = r.frame := rfl
@[simp] theorem raiseConfigError_bitIdx (r : Regs) (i : Inputs) : (raiseConfigError r i).bitIdx = r.bitIdx := rfl
@[simp] theorem raiseConfigError_cyc (r : Regs) (i : Inputs) : (raiseConfigError r i).cyc = r.cyc := rfl
@[simp] theorem raiseConfigError_cancel (r : Regs) (i : Inputs) : (raiseConfigError r i).cancel = cancelReq r i := rfl
@[simp] theorem raiseConfigError_err (r : Regs) (i : Inputs) : (raiseConfigError r i).err = true := rfl
@[simp] theorem raiseConfigError_errCode (r : Regs) (i : Inputs) : (raiseConfigError r i).errCode = .ioConfig := rfl
@[simp] theorem raiseConfigError_errBit (r : Regs) (i : Inputs) : (raiseConfigError r i).errBit = 0#6 := rfl
@[simp] theorem raiseConfigError_done (r : Regs) (i : Inputs) : (raiseConfigError r i).done = false := rfl

/-! `raiseTransmitError` -/

@[simp] theorem raiseTransmitError_st (r : Regs) (i : Inputs) : (raiseTransmitError r i).st = .abort := rfl
@[simp] theorem raiseTransmitError_frame (r : Regs) (i : Inputs) : (raiseTransmitError r i).frame = r.frame := rfl
@[simp] theorem raiseTransmitError_bitIdx (r : Regs) (i : Inputs) : (raiseTransmitError r i).bitIdx = r.bitIdx := rfl
@[simp] theorem raiseTransmitError_cyc (r : Regs) (i : Inputs) : (raiseTransmitError r i).cyc = 0 := rfl
@[simp] theorem raiseTransmitError_cancel (r : Regs) (i : Inputs) : (raiseTransmitError r i).cancel = cancelReq r i := rfl
@[simp] theorem raiseTransmitError_err (r : Regs) (i : Inputs) : (raiseTransmitError r i).err = true := rfl
@[simp] theorem raiseTransmitError_errCode (r : Regs) (i : Inputs) : (raiseTransmitError r i).errCode = .transmit := rfl
@[simp] theorem raiseTransmitError_errBit (r : Regs) (i : Inputs) : (raiseTransmitError r i).errBit = r.bitIdx := rfl
@[simp] theorem raiseTransmitError_done (r : Regs) (i : Inputs) : (raiseTransmitError r i).done = false := rfl

/-! `relRule` -/

@[simp] theorem relRule_st (r : Regs) : (relRule r).st = .idle := rfl
@[simp] theorem relRule_frame (r : Regs) : (relRule r).frame = r.frame := rfl
@[simp] theorem relRule_bitIdx (r : Regs) : (relRule r).bitIdx = r.bitIdx := rfl
@[simp] theorem relRule_cyc (r : Regs) : (relRule r).cyc = r.cyc := rfl
@[simp] theorem relRule_cancel (r : Regs) : (relRule r).cancel = false := rfl
@[simp] theorem relRule_err (r : Regs) : (relRule r).err = r.err := rfl
@[simp] theorem relRule_errCode (r : Regs) : (relRule r).errCode = r.errCode := rfl
@[simp] theorem relRule_errBit (r : Regs) : (relRule r).errBit = r.errBit := rfl
@[simp] theorem relRule_done (r : Regs) : (relRule r).done = false := rfl

/-! `State.endCycle` -/

@[simp] theorem State.endCycle_params (s : State) (shown : Regs) (op : SinkOp) (n : Regs) : (s.endCycle shown op n).params = s.params := rfl
@[simp] theorem State.endCycle_regs (s : State) (shown : Regs) (op : SinkOp) (n : Regs) : (s.endCycle shown op n).regs = n := rfl
@[simp] theorem State.endCycle_ports (s : State) (shown : Regs) (op : SinkOp) (n : Regs) : (s.endCycle shown op n).ports = s.pending.headD s.ports := rfl
@[simp] theorem State.endCycle_pending (s : State) (shown : Regs) (op : SinkOp) (n : Regs) : (s.endCycle shown op n).pending = s.pending.tail := rfl
@[simp] theorem State.endCycle_calls (s : State) (shown : Regs) (op : SinkOp) (n : Regs) : (s.endCycle shown op n).calls = logCall op (lineOf shown) s.calls := rfl
@[simp] theorem State.endCycle_func (s : State) (shown : Regs) (op : SinkOp) (n : Regs) : (s.endCycle shown op n).func = s.func := rfl
@[simp] theorem State.endCycle_queue (s : State) (shown : Regs) (op : SinkOp) (n : Regs) : (s.endCycle shown op n).queue = s.queue := rfl

/-! `State.deliverBits` -/

@[simp] theorem State.deliverBits_params (s : State) (x : List Bool) : (s.deliverBits x).params = s.params := rfl
@[simp] theorem State.deliverBits_regs (s : State) (x : List Bool) : (s.deliverBits x).regs = s.regs := rfl
@[simp] theorem State.deliverBits_ports (s : State) (x : List Bool) : (s.deliverBits x).ports = s.ports := rfl
@[simp] theorem State.deliverBits_pending (s : State) (x : List Bool) : (s.deliverBits x).pending = s.pending := rfl
@[simp] theorem State.deliverBits_calls (s : State) (x : List Bool) : (s.deliverBits x).calls = s.calls := rfl
@[simp] theorem State.deliverBits_queue (s : State) (x : List Bool) : (s.deliverBits x).queue = s.queue := rfl
@[simp] theorem State.deliverBits_func_bits (s : State) (x : List Bool) : (s.deliverBits x).func.bits = x := rfl
@[simp] theorem State.deliverBits_func_frame (s : State) (x : List Bool) : (s.deliverBits x).func.frame = s.func.frame := rfl
@[simp] theorem State.deliverBits_func_symbol (s : State) (x : List Bool) : (s.deliverBits x).func.symbol = s.func.symbol := rfl
@[simp] theorem State.deliverBits_func_text (s : State) (x : List Bool) : (s.deliverBits x).func.text = s.func.text := rfl

/-! `State.deliverFrame` -/

@[simp] theorem State.deliverFrame_params (s : State) (x : Frame) : (s.deliverFrame x).params = s.params := rfl
@[simp] theorem State.deliverFrame_regs (s : State) (x : Frame) : (s.deliverFrame x).regs = s.regs := rfl
@[simp] theorem State.deliverFrame_ports (s : State) (x : Frame) : (s.deliverFrame x).ports = s.ports := rfl
@[simp] theorem State.deliverFrame_pending (s : State) (x : Frame) : (s.deliverFrame x).pending = s.pending := rfl
@[simp] theorem State.deliverFrame_calls (s : State) (x : Frame) : (s.deliverFrame x).calls = s.calls := rfl
@[simp] theorem State.deliverFrame_queue (s : State) (x : Frame) : (s.deliverFrame x).queue = s.queue := rfl
@[simp] theorem State.deliverFrame_func_bits (s : State) (x : Frame) : (s.deliverFrame x).func.bits = s.func.bits := rfl
@[simp] theorem State.deliverFrame_func_frame (s : State) (x : Frame) : (s.deliverFrame x).func.frame = x := rfl
@[simp] theorem State.deliverFrame_func_symbol (s : State) (x : Frame) : (s.deliverFrame x).func.symbol = s.func.symbol := rfl
@[simp] theorem State.deliverFrame_func_text (s : State) (x : Frame) : (s.deliverFrame x).func.text = s.func.text := rfl

/-! `State.deliverSymbol` -/

@[simp] theorem State.deliverSymbol_params (s : State) (x : Symbol) : (s.deliverSymbol x).params = s.params := rfl
@[simp] theorem State.deliverSymbol_regs (s : State) (x : Symbol) : (s.deliverSymbol x).regs = s.regs := rfl
@[simp] theorem State.deliverSymbol_ports (s : State) (x : Symbol) : (s.deliverSymbol x).ports = s.ports := rfl
@[simp] theorem State.deliverSymbol_pending (s : State) (x : Symbol) : (s.deliverSymbol x).pending = s.pending := rfl
@[simp] theorem State.deliverSymbol_calls (s : State) (x : Symbol) : (s.deliverSymbol x).calls = s.calls := rfl
@[simp] theorem State.deliverSymbol_queue (s : State) (x : Symbol) : (s.deliverSymbol x).queue = s.queue := rfl
@[simp] theorem State.deliverSymbol_func_bits (s : State) (x : Symbol) : (s.deliverSymbol x).func.bits = s.func.bits := rfl
@[simp] theorem State.deliverSymbol_func_frame (s : State) (x : Symbol) : (s.deliverSymbol x).func.frame = s.func.frame := rfl
@[simp] theorem State.deliverSymbol_func_symbol (s : State) (x : Symbol) : (s.deliverSymbol x).func.symbol = some x := rfl
@[simp] theorem State.deliverSymbol_func_text (s : State) (x : Symbol) : (s.deliverSymbol x).func.text = s.func.text := rfl

/-! `State.deliverText` -/

@[simp] theorem State.deliverText_params (s : State) (x : List Char) : (s.deliverText x).params = s.params := rfl
@[simp] theorem State.deliverText_regs (s : State) (x : List Char) : (s.deliverText x).regs = s.regs := rfl
@[simp] theorem State.deliverText_ports (s : State) (x : List Char) : (s.deliverText x).ports = s.ports := rfl
@[simp] theorem State.deliverText_pending (s : State) (x : List Char) : (s.deliverText x).pending = s.pending := rfl
@[simp] theorem State.deliverText_calls (s : State) (x : List Char) : (s.deliverText x).calls = s.calls := rfl
@[simp] theorem State.deliverText_queue (s : State) (x : List Char) : (s.deliverText x).queue = s.queue := rfl
@[simp] theorem State.deliverText_func_bits (s : State) (x : List Char) : (s.deliverText x).func.bits = s.func.bits := rfl
@[simp] theorem State.deliverText_func_frame (s : State) (x : List Char) : (s.deliverText x).func.frame = s.func.frame := rfl
@[simp] theorem State.deliverText_func_symbol (s : State) (x : List Char) : (s.deliverText x).func.symbol = s.func.symbol := rfl
@[simp] theorem State.deliverText_func_text (s : State) (x : List Char) : (s.deliverText x).func.text = x := rfl

/-! `State.withFetchWord` -/

@[simp] theorem State.withFetchWord_params (s : State) (nbits w : Nat) : (s.withFetchWord nbits w).params = s.params := rfl
@[simp] theorem State.withFetchWord_regs (s : State) (nbits w : Nat) : (s.withFetchWord nbits w).regs = s.regs := rfl
@[simp] theorem State.withFetchWord_ports (s : State) (nbits w : Nat) : (s.withFetchWord nbits w).ports = s.ports := rfl
@[simp] theorem State.withFetchWord_pending (s : State) (nbits w : Nat) : (s.withFetchWord nbits w).pending = s.pending := rfl
@[simp] theorem State.withFetchWord_calls (s : State) (nbits w : Nat) : (s.withFetchWord nbits w).calls = s.calls := rfl
@[simp] theorem State.withFetchWord_func (s : State) (nbits w : Nat) : (s.withFetchWord nbits w).func = s.func := rfl
@[simp] theorem State.withFetchWord_queue (s : State) (nbits w : Nat) : (s.withFetchWord nbits w).queue = tableWord nbits w :: s.queue := rfl

end Sys2Proof.Machine
end

