-- ==== Sys2Proof/Laws/Ops.lean ====
section
/-! SUPPORT. What a cycle does, once for each shared operation: the edge by its priorities (R156), the registers state by
state, a cycle of the block by itself, and what every cycle leaves alone. -/

namespace Sys2Proof.Machine

theorem edge_reset {p : Params} {r : Regs} {i : Inputs} {y : Symbol} {c : ErrCode} (h : i.rst = true) :
    edge p r i y c = Regs.reset := by simp [edge, h]

theorem edge_ioConfig {p : Params} {r : Regs} {i : Inputs} {y : Symbol} (h : i.rst = false) :
    edge p r i y .ioConfig = raiseConfigError r i := by simp [edge, h]

theorem edge_transmit {p : Params} {r : Regs} {i : Inputs} {y : Symbol} (h : i.rst = false) :
    edge p r i y .transmit = raiseTransmitError r i := by simp [edge, h]

/-- Everything an edge can do. -/
theorem edge_cases {p : Params} {r n : Regs} {i : Inputs} {y : Symbol} {c : ErrCode} (h : edge p r i y c = n) :
    (i.rst = true ∧ n = Regs.reset) ∨
    (i.rst = false ∧ c = .ioConfig ∧ n = raiseConfigError r i) ∨
    (i.rst = false ∧ c = .transmit ∧ n = raiseTransmitError r i) ∨
    (i.rst = false ∧ c ≠ .ioConfig ∧ c ≠ .transmit ∧
      ((r.st = .idle ∧ n = idleRule r i) ∨ (r.st = .config ∧ n = configRule r i) ∨
       (r.st = .high ∧ n = highRule p r i y) ∨ (r.st = .low ∧ n = lowRule p r i y) ∨
       (r.st = .abort ∧ n = leaveAbort p r i) ∨ (r.st = .rel ∧ n = relRule r))) := by
  subst h
  unfold edge
  cases h1 : i.rst <;> cases c <;> cases h2 : r.st <;> simp

/-- The error a cycle of the block raises (R143). -/
theorem causeNow_eq (r : Regs) (i : Inputs) :
    causeNow r i =
      if i.sinkFault = true ∧ r.st = .config then .ioConfig
      else if i.sinkFault = true ∧ (r.st = .high ∨ r.st = .low) ∧ r.cyc = 0 then .transmit
      else .none := by
  cases h : r.st <;> cases hf : i.sinkFault <;> by_cases hc : r.cyc = 0 <;>
    simp [causeNow, causeOf, sinkOpOf, h, hc, hf]

theorem stepRegs_reset {p : Params} {r : Regs} {i : Inputs} (h : i.rst = true) : stepRegs p r i = Regs.reset :=
  edge_reset h

theorem stepRegs_idle {p : Params} {r : Regs} {i : Inputs} (hr : i.rst = false) (hs : r.st = .idle) :
    stepRegs p r i = idleRule r i := by
  simp [stepRegs, edge, hr, causeNow_eq, hs]

theorem stepRegs_config {p : Params} {r : Regs} {i : Inputs} (hr : i.rst = false) (hs : r.st = .config) :
    stepRegs p r i = if i.sinkFault = true then raiseConfigError r i else configRule r i := by
  cases hf : i.sinkFault <;> simp [stepRegs, edge, hr, causeNow_eq, hs, hf]

theorem stepRegs_high {p : Params} {r : Regs} {i : Inputs} (hr : i.rst = false) (hs : r.st = .high) :
    stepRegs p r i =
      if i.sinkFault = true ∧ r.cyc = 0 then raiseTransmitError r i else highRule p r i (symOf r) := by
  by_cases hf : i.sinkFault = true ∧ r.cyc = 0 <;> simp [stepRegs, edge, hr, causeNow_eq, hs, hf]

theorem stepRegs_low {p : Params} {r : Regs} {i : Inputs} (hr : i.rst = false) (hs : r.st = .low) :
    stepRegs p r i =
      if i.sinkFault = true ∧ r.cyc = 0 then raiseTransmitError r i else lowRule p r i (symOf r) := by
  by_cases hf : i.sinkFault = true ∧ r.cyc = 0 <;> simp [stepRegs, edge, hr, causeNow_eq, hs, hf]

theorem stepRegs_abort {p : Params} {r : Regs} {i : Inputs} (hr : i.rst = false) (hs : r.st = .abort) :
    stepRegs p r i = leaveAbort p r i := by
  simp [stepRegs, edge, hr, causeNow_eq, hs]

theorem stepRegs_rel {p : Params} {r : Regs} {i : Inputs} (hr : i.rst = false) (hs : r.st = .rel) :
    stepRegs p r i = relRule r := by
  simp [stepRegs, edge, hr, causeNow_eq, hs]

/-- Everything a cycle of the block without reset can do to the registers, case by case, with the guards (R110 to R156). -/
theorem stepRegs_cases (p : Params) (r : Regs) (i : Inputs) (hr : i.rst = false) :
    (r.st = .idle ∧ stepRegs p r i = idleRule r i) ∨
    (r.st = .config ∧ i.sinkFault = true ∧ stepRegs p r i = raiseConfigError r i) ∨
    (r.st = .config ∧ i.sinkFault = false ∧ cancelReq r i = true ∧
      stepRegs p r i = { r with st := .rel, cancel := true, done := false }) ∨
    (r.st = .config ∧ i.sinkFault = false ∧ cancelReq r i = false ∧
      stepRegs p r i = { r with cancel := false, done := false }.beginFrame i) ∨
    ((r.st = .high ∨ r.st = .low) ∧ i.sinkFault = true ∧ r.cyc = 0 ∧ stepRegs p r i = raiseTransmitError r i) ∨
    (r.st = .high ∧ ¬ (i.sinkFault = true ∧ r.cyc = 0) ∧ r.cyc = hiLen p (symOf r) - 1 ∧
      stepRegs p r i = { r with cancel := cancelReq r i, done := false, st := .low, cyc := 0 }) ∨
    (r.st = .high ∧ ¬ (i.sinkFault = true ∧ r.cyc = 0) ∧ r.cyc ≠ hiLen p (symOf r) - 1 ∧
      stepRegs p r i = { r with cancel := cancelReq r i, done := false, cyc := r.cyc + 1 }) ∨
    (r.st = .low ∧ ¬ (i.sinkFault = true ∧ r.cyc = 0) ∧ r.cyc ≠ loLen p (symOf r) - 1 ∧
      stepRegs p r i = { r with cancel := cancelReq r i, done := false, cyc := r.cyc + 1 }) ∨
    (r.st = .low ∧ ¬ (i.sinkFault = true ∧ r.cyc = 0) ∧ r.cyc = loLen p (symOf r) - 1 ∧ cancelReq r i = true ∧
      stepRegs p r i = { r with cancel := true, done := doneAtBoundary r, st := .rel, cyc := 0 }) ∨
    (r.st = .low ∧ ¬ (i.sinkFault = true ∧ r.cyc = 0) ∧ r.cyc = loLen p (symOf r) - 1 ∧ cancelReq r i = false ∧ r.bitIdx = 59#6 ∧
      stepRegs p r i = { r with cancel := false, done := true }.beginFrame i) ∨
    (r.st = .low ∧ ¬ (i.sinkFault = true ∧ r.cyc = 0) ∧ r.cyc = loLen p (symOf r) - 1 ∧ cancelReq r i = false ∧ r.bitIdx ≠ 59#6 ∧
      stepRegs p r i = { r with cancel := false, done := false, bitIdx := r.bitIdx + 1#6, st := .high, cyc := 0 }) ∨
    (r.st = .abort ∧ p.retryOnIoErr = true ∧ cancelReq r i = false ∧
      stepRegs p r i = { r with cancel := false, done := false }.beginFrame i) ∨
    (r.st = .abort ∧ ¬ (p.retryOnIoErr = true ∧ cancelReq r i = false) ∧
      stepRegs p r i = { r with cancel := cancelReq r i, done := false, st := .rel }) ∨
    (r.st = .rel ∧ stepRegs p r i = relRule r) := by
  cases h : r.st with
  | idle => simp [stepRegs_idle hr h]
  | config => cases hf : i.sinkFault <;> cases hc : cancelReq r i <;> simp [stepRegs_config hr h, configRule, hf, hc, Regs.beginFrame]
  | high =>
    by_cases hf : i.sinkFault = true ∧ r.cyc = 0
    · simp [stepRegs_high hr h, hf]
    · by_cases hc : r.cyc = hiLen p (symOf r) - 1
      · simp only [stepRegs_high hr h, if_neg hf, highRule, if_pos hc]; simp [hf]; tauto
      · simp only [stepRegs_high hr h, if_neg hf, highRule, if_neg hc]; simp [hf, hc, h]
  | low =>
    by_cases hf : i.sinkFault = true ∧ r.cyc = 0
    · simp [stepRegs_low hr h, hf]
    · by_cases hc : r.cyc = loLen p (symOf r) - 1
      · by_cases hq : cancelReq r i = true
        · simp only [stepRegs_low hr h, if_neg hf, lowRule, if_pos hc, bitBoundary, hq]; simp [hf]; tauto
        · have hq : cancelReq r i = false := by simpa using hq
          by_cases hb : r.bitIdx = 59#6
          · simp only [stepRegs_low hr h, if_neg hf, lowRule, if_pos hc, bitBoundary, hq, hb]
            simp [hf, doneAtBoundary, hb, Regs.beginFrame]
            tauto
          · simp only [stepRegs_low hr h, if_neg hf, lowRule, if_pos hc, bitBoundary, hq, hb]
            simp [hf, doneAtBoundary, hb]
            tauto
      · simp only [stepRegs_low hr h, if_neg hf, lowRule, if_neg hc]; simp [hf, hc, h]
  | abort => cases hf : p.retryOnIoErr <;> cases hc : cancelReq r i <;> simp [stepRegs_abort hr h, leaveAbort, hf, hc, Regs.beginFrame]
  | rel => simp [stepRegs_rel hr h]

@[simp] theorem State.clock_params (s : State) : s.clock.params = s.params := rfl
@[simp] theorem State.clock_regs (s : State) : s.clock.regs = stepRegs s.params s.regs s.ports := rfl
@[simp] theorem State.clock_ports (s : State) : s.clock.ports = s.pending.headD s.ports := rfl
@[simp] theorem State.clock_pending (s : State) : s.clock.pending = s.pending.tail := rfl
@[simp] theorem State.clock_calls (s : State) :
    s.clock.calls = logCall (sinkOpOf s.regs) (lineOf s.regs) s.calls := rfl
@[simp] theorem State.clock_func (s : State) : s.clock.func = s.func := rfl
@[simp] theorem State.clock_queue (s : State) : s.clock.queue = s.queue := rfl

/-- The command on the ports is always a word of its place (R59: every code point is defined). -/
theorem decode_commandWord (i : Inputs) :
    decode (commandWord i) = .ok (match i.start, i.stop with
      | false, false => .cmdNop
      | true, false => .cmdStart
      | false, true => .cmdStop false
      | true, true => .cmdStop true) := by
  cases h1 : i.start <;> cases h2 : i.stop <;> simp [commandWord, decode, word, decodeCmd, h1, h2]

/-- With nothing queued a step is one clock cycle of the block. -/
theorem step_of_queue_nil {s : State} (h : s.queue = []) : step s = .next s.clock := by
  have hp : ∀ b c, s.ports.start = b → s.ports.stop = c →
      ({ s.ports with start := b, stop := c } : Inputs) = s.ports := by
    rintro _ _ rfl rfl; rfl
  unfold step
  simp only [fetch, h, decode_commandWord]
  cases h1 : s.ports.start <;> cases h2 : s.ports.stop <;>
    simp [exec, execCmdNop, execCmdStart, execCmdStop, State.cycleCmd, State.clock, hp _ _ h1 h2]

/-- With a word queued a step runs that word and takes it off the queue. -/
theorem step_of_queue_cons {s : State} {w : OpWord} {ws : List OpWord} {i : Instr} (h : s.queue = w :: ws)
    (hd : decode w = .ok i) : step s = exec i { s with queue := ws } := by
  simp [step, fetch, h, hd]

end Sys2Proof.Machine
end

