-- ==== Sys2Proof/Laws/PerInstr.lean ====
section
/-! SUPPORT. Facts about every instruction as syntax, one lemma per constructor. Family `EncodedFits`: the encoder gives every
instruction operand words within the widths of the table. -/

namespace Sys2Proof.Laws.EncodedFits

/-- The word of the instruction is within the width of its place. -/
def Statement (i : Instr) : Prop := (Sys2Proof.encode i).fits = true

theorem field8Bits_lt (t u : Digit) : field8Bits t u < 2 ^ 8 := by
  unfold field8Bits; omega

theorem field17Bits_lt (p : Bool) (k h t u : Digit) : field17Bits p k h t u < 2 ^ 17 := by
  have : p.toNat ≤ 1 := Bool.toNat_le p
  unfold field17Bits; omega

theorem sampleBits_lt (s : Sample) : sampleBits s < 2 ^ 26 := by
  have h1 := s.sec.isLt
  have h2 := s.min.isLt
  have h3 := s.hour.isLt
  have h4 := s.doy.isLt
  unfold sampleBits; omega

theorem encode (value width : Nat) : Statement (.encode value width) := rfl

theorem build (sample : Sample) : Statement (.build sample) := by
  simpa [Statement, Sys2Proof.encode, word, OpWord.fits, Place.width] using sampleBits_lt sample

theorem render (f : Frame) : Statement (.render f) := by
  simpa [Statement, Sys2Proof.encode, word, OpWord.fits, Place.width] using f.isLt

theorem sym (f : Frame) (i : Fin 60) : Statement (.sym f i) := by
  have h := f.isLt
  simp [Statement, Sys2Proof.encode, OpWord.fits, Place.width]; omega

theorem frame (sec min hour : BitVec 8) (doy : BitVec 17) : Statement (.frame sec min hour doy) := by
  simpa [Statement, Sys2Proof.encode, word, OpWord.fits, Place.width] using (frameBits sec min hour doy).isLt

theorem fieldSec (tens units : Digit) : Statement (.fieldSec tens units) := by
  simpa [Statement, Sys2Proof.encode, word, OpWord.fits, Place.width] using field8Bits_lt tens units

theorem fieldMin (tens units : Digit) : Statement (.fieldMin tens units) := by
  simpa [Statement, Sys2Proof.encode, word, OpWord.fits, Place.width] using field8Bits_lt tens units

theorem fieldHour (tens units : Digit) : Statement (.fieldHour tens units) := by
  simpa [Statement, Sys2Proof.encode, word, OpWord.fits, Place.width] using field8Bits_lt tens units

theorem fieldDoy (tenThousands : Bool) (thousands hundreds tens units : Digit) : Statement (.fieldDoy tenThousands thousands hundreds tens units) := by
  simpa [Statement, Sys2Proof.encode, word, OpWord.fits, Place.width] using field17Bits_lt tenThousands thousands hundreds tens units

theorem digit0 : Statement .digit0 := rfl

theorem digit1 : Statement .digit1 := rfl

theorem digit2 : Statement .digit2 := rfl

theorem digit3 : Statement .digit3 := rfl

theorem digit4 : Statement .digit4 := rfl

theorem digit5 : Statement .digit5 := rfl

theorem digit6 : Statement .digit6 := rfl

theorem digit7 : Statement .digit7 := rfl

theorem digit8 : Statement .digit8 := rfl

theorem digit9 : Statement .digit9 := rfl

theorem symMark (stored : Bool) : Statement (.symMark stored) := by
  cases stored <;> rfl

theorem symOne : Statement .symOne := rfl

theorem symZero : Statement .symZero := rfl

theorem cmdNop : Statement .cmdNop := rfl

theorem cmdStart : Statement .cmdStart := rfl

theorem cmdStop (start : Bool) : Statement (.cmdStop start) := by
  cases start <;> rfl

theorem sinkNone : Statement .sinkNone := rfl

theorem sinkConfigure : Statement .sinkConfigure := rfl

theorem sinkSet : Statement .sinkSet := rfl

theorem sinkRelease : Statement .sinkRelease := rfl

theorem stIdle : Statement .stIdle := rfl

theorem stConfig : Statement .stConfig := rfl

theorem stHigh : Statement .stHigh := rfl

theorem stLow : Statement .stLow := rfl

theorem stAbort : Statement .stAbort := rfl

theorem stRel : Statement .stRel := rfl

theorem errNone : Statement .errNone := rfl

theorem errEncoding : Statement .errEncoding := rfl

theorem errIoConfig : Statement .errIoConfig := rfl

theorem errTransmit : Statement .errTransmit := rfl

theorem errInvariant : Statement .errInvariant := rfl

end Sys2Proof.Laws.EncodedFits
end

