-- ==== Sys2Proof/Laws/Runs.lean ====
section
/-! SUPPORT. The terms of Safety over the machine: a step as `nextCycle`, the calls of a cycle, and runs of the block by itself
one step at a time. -/

namespace Sys2Proof.Machine

open Sys2Proof.Safety

/-- A cycle of the block asks the sink for what R29 and R30 show. -/
theorem logCall_eq_callsAfter (r : Regs) (calls : List SinkCall) :
    logCall (sinkOpOf r) (lineOf r) calls = callsAfter r calls := by
  cases h : r.st <;> by_cases hc : r.cyc = 0 <;> simp [logCall, sinkOpOf, lineOf, callsAfter, h, hc]

/-- With nothing queued a step is one clock cycle, and nothing else changes. -/
theorem step_eq_nextCycle {s : State} (h : s.queue = []) :
    step s = .next (nextCycle s (stepRegs s.params s.regs s.ports) (callsAfter s.regs s.calls)) := by
  rw [step_of_queue_nil h, ← logCall_eq_callsAfter]; rfl

/-- A run of any machine goes one step at a time. -/
theorem coreRun_succ {M : Host.Core} {s t : M.State} (h : M.step s = .next t) (k : Nat) :
    M.run (k + 1) s = M.run k t := by
  rw [Host.Core.run, h]

theorem run_succ_of_step {s t : State} (h : step s = .next t) (k : Nat) :
    Sys2Proof.core.run (k + 1) s = Sys2Proof.core.run k t :=
  coreRun_succ (M := Sys2Proof.core) h k

theorem after_zero {s : State} {P : Regs → Prop} : After 0 s P ↔ P s.regs :=
  ⟨fun ⟨_, h, hp⟩ => by cases h; exact hp, fun h => ⟨s, rfl, h⟩⟩

/-- A property after `k + 1` cycles is the property after `k` cycles of the state that one cycle leaves. -/
theorem after_succ {s : State} (h : s.queue = []) {k : Nat} {P : Regs → Prop} :
    After (k + 1) s P ↔ After k s.clock P := by
  unfold After; rw [run_succ_of_step (step_of_queue_nil h)]

@[simp] theorem inputOf_zero (s : State) : inputOf s 0 = s.ports := rfl

@[simp] theorem inputOf_clock (s : State) (k : Nat) : inputOf s.clock k = inputOf s (k + 1) := rfl

/-- When nothing is scheduled the ports keep their levels (R71). -/
theorem inputOf_held {s : State} (h : s.pending = []) (k : Nat) : inputOf s k = s.ports := by
  unfold inputOf; rw [h]
  induction k with
  | zero => rfl
  | succ k ih => exact ih

end Sys2Proof.Machine
end

