-- ==== Sys2Proof/Tests/Slice0.lean ====
section
/-! SUPPORT. Tests: words written out from the encodings of the spec, vectors of 95 (named E, B and V below: sections 2.1, 2.2
and 2.4, and the programs P), and for every statement with hypotheses a witness that meets them. -/

namespace Sys2Proof.Tests

open Sys2Proof Sys2Proof.Machine Sys2Proof.Safety

/-! ### A small state -/

/-- `build(9, 0, 0, 1)`, the frame `F` of 95 section 2.4. -/
def frameF : Frame := 0x4400000000121#60

/-- The inputs of 95 section 2.4: `ts = {9,0,0,1}`, every other input 0. -/
def quiet : Inputs := { Inputs.zero with tsSec := 9#6, tsDoy := 1#9 }

/-- Frame `F`, no error, no cancellation. -/
def regsAt (st : St) (bit : BitIdx) (cyc : Nat) : Regs :=
  { st := st, frame := frameF, bitIdx := bit, cyc := cyc, cancel := false, err := false, errCode := .none, errBit := 0#6,
    done := false }

/-- An instance with `TICK_DIV = 1`. -/
def stateOf (retry : Bool) (r : Regs) (i : Inputs) : State :=
  { params := { tickDivPred := 0, retryOnIoErr := retry }, regs := r, ports := i, pending := [], calls := [],
    func := FuncResults.initial, queue := [] }

/-- `TICK_DIV = 1`, `RETRY_ON_IOERR = 0`, the quiet inputs. -/
def stateAt (st : St) (bit : BitIdx) (cyc : Nat) : State := stateOf false (regsAt st bit cyc) quiet

/-- The same with other inputs. -/
def stateWith (st : St) (bit : BitIdx) (cyc : Nat) (i : Inputs) : State := stateOf false (regsAt st bit cyc) i

/-- The registers of a next state. -/
def regsOf : Host.Outcome State Fault Refusal → Option Regs
  | .next t => some t.regs
  | .fault _ | .refused _ => none

/-- The results of the functional layer in a next state. -/
def funcOf : Host.Outcome State Fault Refusal → Option FuncResults
  | .next t => some t.func
  | .fault _ | .refused _ => none

/-- The calls of a next state. -/
def callsOf : Host.Outcome State Fault Refusal → Option (List SinkCall)
  | .next t => some t.calls
  | .fault _ | .refused _ => none

/-! ### Well-formedness: the one check -/

theorem test_wf_refuses_width_zero : (Instr.encode 5 0).wf = false ∧ decode (encode (.encode 5 0)) = .error .encodeWidthZero := by
  decide

theorem test_wf_admits_width_one : (Instr.encode 5 1).wf = true := by decide

/-! ### Words written out from the encodings of the spec -/

theorem test_decode_digits :
    decode (word .digit 0b0000) = .ok .digit0 ∧ decode (word .digit 0b0001) = .ok .digit1 ∧
    decode (word .digit 0b0010) = .ok .digit2 ∧ decode (word .digit 0b0011) = .ok .digit3 ∧
    decode (word .digit 0b0100) = .ok .digit4 ∧ decode (word .digit 0b0101) = .ok .digit5 ∧
    decode (word .digit 0b0110) = .ok .digit6 ∧ decode (word .digit 0b0111) = .ok .digit7 ∧
    decode (word .digit 0b1000) = .ok .digit8 ∧ decode (word .digit 0b1001) = .ok .digit9 := by decide

theorem test_decode_fields :
    decode (word .fieldSec 0b00001001) = .ok (.fieldSec 0 9) ∧ decode (word .fieldMin 0b01011001) = .ok (.fieldMin 5 9) ∧
    decode (word .fieldHour 0b00100011) = .ok (.fieldHour 2 3) ∧
    decode (word .fieldDoy 0b00000001101100110) = .ok (.fieldDoy false 0 3 6 6) ∧
    decode (word .fieldDoy 0b11001100110011001) = .ok (.fieldDoy true 9 9 9 9) ∧
    decode (word .fieldSec 0b10100000) = .error .notADigit ∧ decode (word .fieldMin 0b00001010) = .error .notADigit ∧
    decode (word .fieldHour 0x100) = .error .tooWide ∧ decode (word .fieldDoy 0x20000) = .error .tooWide := by decide

theorem test_decode_symsel :
    decode (word .symsel 0b10) = .ok (.symMark false) ∧ decode (word .symsel 0b11) = .ok (.symMark true) ∧
    decode (word .symsel 0b01) = .ok .symOne ∧ decode (word .symsel 0b00) = .ok .symZero := by decide

theorem test_decode_cmd :
    decode (word .cmd 0b00) = .ok .cmdNop ∧ decode (word .cmd 0b10) = .ok .cmdStart ∧
    decode (word .cmd 0b01) = .ok (.cmdStop false) ∧ decode (word .cmd 0b11) = .ok (.cmdStop true) := by decide

theorem test_decode_sinkop :
    decode (word .sinkop 0b00) = .ok .sinkNone ∧ decode (word .sinkop 0b01) = .ok .sinkConfigure ∧
    decode (word .sinkop 0b10) = .ok .sinkSet ∧ decode (word .sinkop 0b11) = .ok .sinkRelease := by decide

theorem test_decode_st :
    decode (word .st 0b000) = .ok .stIdle ∧ decode (word .st 0b001) = .ok .stConfig ∧ decode (word .st 0b010) = .ok .stHigh ∧
    decode (word .st 0b011) = .ok .stLow ∧ decode (word .st 0b100) = .ok .stAbort ∧ decode (word .st 0b101) = .ok .stRel ∧
    decode (word .st 0b110) = .error .unusedStateCode ∧ decode (word .st 0b111) = .error .unusedStateCode := by decide

theorem test_decode_err :
    decode (word .err 0b000) = .ok .errNone ∧ decode (word .err 0b001) = .ok .errEncoding ∧
    decode (word .err 0b010) = .ok .errIoConfig ∧ decode (word .err 0b011) = .ok .errTransmit ∧
    decode (word .err 0b100) = .ok .errInvariant ∧ decode (word .err 0b101) = .error .unusedErrorCode ∧
    decode (word .err 0b111) = .error .unusedErrorCode := by decide

/-- The encoded samples of 95, part 3. -/
theorem test_decode_build :
    decode (word .build 0x0900001) = .ok (.build { sec := 9#6, min := 0#6, hour := 0#5, doy := 1#9 }) ∧
    decode (word .build 0x3BEEF6E) = .ok (.build { sec := 59#6, min := 59#6, hour := 23#5, doy := 366#9 }) ∧
    decode (word .build 0x4000000) = .error .tooWide := by decide

/-- The frames B of {59,59,23,366} and {0,0,0,1}, and a word with a 0 at index 50. -/
theorem test_decode_frame :
    decode (word .frame 0x433600c426935) = .ok (.frame 0b10011010#8 0b10011010#8 0b11000100#8 0b01100110110000000#17) ∧
    decode (word .frame 0x4400000000001) = .ok (.frame 0#8 0#8 0#8 0b10000000000000000#17) ∧
    decode (word .frame 0x0400000000001) = .error .frameConstantBits := by decide

theorem test_decode_words_without_encoding :
    decode { place := .encode, args := [59, 8] } = .ok (.encode 59 8) ∧
    decode { place := .sym, args := [0x4400000000121, 5] } = .ok (.sym frameF 5) ∧
    decode { place := .sym, args := [0, 60] } = .error .noSuchIndex ∧
    decode (word .render 0x4400000000121) = .ok (.render frameF) ∧
    decode { place := .cmd, args := [] } = .error .operandCount := by decide

/-- Log 6: what a bare number of the table is read as. -/
theorem test_table_words :
    decodeTableWord 8 2 = some .cmdStart ∧ decodeTableWord 8 5 = some .stRel ∧ decodeTableWord 8 9 = some .digit9 ∧
    decodeTableWord 3 0 = some .stIdle ∧ decodeTableWord 32 0x3BEEF6E = decodeTableWord 26 0x3BEEF6E ∧
    decodeTableWord 64 0x4400000000001 = decodeTableWord 60 0x4400000000001 := by decide

/-! ### The functional layer -/

theorem test_encode_vectors :
    bcdEncode 59 8 = [false, true, false, true, true, false, false, true] ∧
    bcdEncode 100 8 = List.replicate 8 false ∧ bcdEncode 9 3 = [false, false, true] ∧
    bcdEncode 20000 17 = List.replicate 17 false := by decide

theorem test_exec_encode :
    (funcOf (exec (.encode 366 17) State.reset)).map FuncResults.bits =
      some [false, false, false, false, false, false, false, true, true, false, true, true, false, false, true, true, false] := by
  decide

theorem test_exec_digits :
    (funcOf (exec .digit0 State.reset)).map FuncResults.bits = some [false, false, false, false] ∧
    (funcOf (exec .digit1 State.reset)).map FuncResults.bits = some [false, false, false, true] ∧
    (funcOf (exec .digit6 State.reset)).map FuncResults.bits = some [false, true, true, false] ∧
    (funcOf (exec .digit8 State.reset)).map FuncResults.bits = some [true, false, false, false] := by decide

/-- B: a valid day, the largest valid sample, the largest port values, and a stored 1 in a marker slot. -/
theorem test_build_vectors :
    build 9 0 0 1 = 0x4400000000121#60 ∧ build 59 59 23 366 = 0x433600c426935#60 ∧
    build 63 63 31 511 = 0x4445008c3198d#60 ∧ build 7 8 9 47 = 0x47100090041c1#60 := by decide

theorem test_exec_build :
    (funcOf (exec (.build { sec := 30#6, min := 45#6, hour := 12#5, doy := 256#9 }) State.reset)).map FuncResults.frame =
      some 0x4352004828819#60 := by decide

/-- B: the seconds, minutes, hours and day fields alone, on the marked frame; the minutes and hours fields overwrite the ones
at 10 and 20, the day field those at 30 and 40. -/
theorem test_exec_fields :
    (funcOf (exec (.fieldSec 5 9) State.reset)).map FuncResults.frame = some 0x4010040100535#60 ∧
    (funcOf (exec (.fieldMin 5 9) State.reset)).map FuncResults.frame = some 0x4010040126801#60 ∧
    (funcOf (exec (.fieldHour 2 3) State.reset)).map FuncResults.frame = some 0x401004c400401#60 ∧
    (funcOf (exec (.fieldDoy false 0 3 6 6) State.reset)).map FuncResults.frame = some 0x4336000100401#60 := by decide

theorem test_exec_frame :
    (funcOf (exec (.frame 0b10011010#8 0b10011010#8 0b11000100#8 0b01100110110000000#17) State.reset)).map FuncResults.frame =
      some 0x433600c426935#60 := by decide

theorem test_exec_render :
    (funcOf (exec (.render 0x47100090041c1#60) State.reset)).map FuncResults.text =
      some "P000001110P000100000P000100100P000000000P000111000P000000000".toList := by decide

/-- 95 section 2.3, and a marker slot with a stored 1. -/
theorem test_exec_sym :
    (funcOf (exec (.sym frameF 5) State.reset)).map FuncResults.symbol = some (some .one) ∧
    (funcOf (exec (.sym frameF 6) State.reset)).map FuncResults.symbol = some (some .zero) ∧
    (funcOf (exec (.sym 0x4410000000001#60 40) State.reset)).map FuncResults.symbol = some (some .mark) := by decide

/-! ### The sequential layer -/

/-- V1 and V4. -/
theorem test_cmdNop_idle : regsOf (exec .cmdNop State.reset) = some Regs.reset := by decide

theorem test_cmdStart_clears_the_status :
    regsOf (exec .cmdStart (stateOf false { regsAt .idle 12#6 0 with err := true, errCode := .transmit, errBit := 12#6 } quiet)) =
      some (regsAt .config 12#6 0) := by decide

/-- V3 and V13. -/
theorem test_cmdStop_beats_start : regsOf (exec (.cmdStop true) (stateAt .idle 0#6 0)) = some (regsAt .idle 0#6 0) := by decide

theorem test_cmdStop_is_latched :
    regsOf (exec (.cmdStop false) (stateAt .high 5#6 4)) = some { regsAt .low 5#6 0 with cancel := true } := by decide

/-- V10, V11 and V12: the last high cycle of each symbol; V16 and V17: the low phase of a marker. -/
theorem test_symbols_end_their_high_phase :
    regsOf (exec (.symMark false) (stateAt .high 0#6 7)) = some (regsAt .low 0#6 0) ∧
    regsOf (exec .symZero (stateAt .high 1#6 1)) = some (regsAt .low 1#6 0) ∧
    regsOf (exec .symOne (stateAt .high 5#6 4)) = some (regsAt .low 5#6 0) := by decide

theorem test_symbols_end_their_low_phase :
    regsOf (exec (.symMark true) (stateAt .low 0#6 1)) = some (regsAt .high 1#6 0) ∧
    regsOf (exec .symZero (stateAt .low 1#6 7)) = some (regsAt .high 2#6 0) ∧
    regsOf (exec .symOne (stateAt .low 5#6 3)) = some (regsAt .low 5#6 4) := by decide

/-- V5, V9, V19, V23 and V28. -/
theorem test_states :
    regsOf (exec .stIdle (stateAt .rel 3#6 0)) = some (regsAt .idle 3#6 0) ∧
    regsOf (exec .stConfig (stateOf false { Regs.reset with st := .config } quiet)) = some (regsAt .high 0#6 0) ∧
    regsOf (exec .stHigh (stateAt .high 0#6 0)) = some (regsAt .high 0#6 1) ∧
    regsOf (exec .stAbort (stateAt .abort 12#6 0)) = some (regsAt .rel 12#6 0) ∧
    regsOf (exec .stRel (stateOf false { regsAt .rel 3#6 0 with cancel := true } quiet)) = some (regsAt .idle 3#6 0) := by decide

theorem test_stLow_cancelled :
    regsOf (exec .stLow (stateOf false { regsAt .low 0#6 1 with cancel := true } quiet)) =
      some { regsAt .rel 0#6 0 with cancel := true } := by decide

/-- V8 and V14: the failing answer, and a stop in the same cycle. -/
theorem test_sinkConfigure_fails :
    regsOf (exec .sinkConfigure (stateWith .config 0#6 0 { quiet with sinkFault := true, stop := true })) =
      some { regsAt .rel 0#6 0 with cancel := true, err := true, errCode := .ioConfig } := by decide

theorem test_sinkSet_fails :
    regsOf (exec .sinkSet (stateWith .high 5#6 0 { quiet with sinkFault := true })) =
      some { regsAt .abort 5#6 0 with err := true, errCode := .transmit, errBit := 5#6 } ∧
    callsOf (exec .sinkSet (stateAt .high 5#6 0)) = some [{ op := .set, level := true }] := by decide

/-- V15: no answer is read in a cycle with no operation. -/
theorem test_sinkNone_reads_no_answer :
    regsOf (exec .sinkNone (stateWith .high 5#6 1 { quiet with sinkFault := true })) = some (regsAt .high 5#6 2) := by decide

/-- V29. -/
theorem test_sinkRelease :
    regsOf (exec .sinkRelease (stateWith .rel 3#6 0 { quiet with start := true, stop := true, sinkFault := true })) =
      some (regsAt .idle 3#6 0) ∧
    callsOf (exec .sinkRelease (stateAt .rel 3#6 0)) = some [{ op := .release, level := false }] := by decide

/-- V7 and V22 by raising the error. -/
theorem test_errors :
    regsOf (exec .errIoConfig (stateAt .config 0#6 0)) = some { regsAt .rel 0#6 0 with err := true, errCode := .ioConfig } ∧
    regsOf (exec .errTransmit (stateAt .low 59#6 0)) =
      some { regsAt .abort 59#6 0 with err := true, errCode := .transmit, errBit := 59#6 } ∧
    regsOf (exec .errNone (stateWith .high 5#6 0 { quiet with sinkFault := true })) = some (regsAt .high 5#6 1) := by decide

theorem test_reserved_errors_stop :
    exec .errEncoding State.reset = .refused (.reservedErrorCode .encoding) ∧
    exec .errInvariant State.reset = .refused (.reservedErrorCode .invariant) := ⟨rfl, rfl⟩

/-- V20 and V21: the last cycle of a frame. -/
theorem test_step_frame_end :
    regsOf (step (stateWith .low 59#6 7 { quiet with tsSec := 0#6 })) =
      some { regsAt .high 0#6 0 with frame := 0x4400000000001#60, done := true } ∧
    regsOf (step (stateWith .low 59#6 7 { quiet with stop := true })) =
      some { regsAt .rel 59#6 0 with cancel := true, done := true } := by decide

/-- V24 and V26: the way out of `ABORT` with retry. -/
theorem test_step_abort_retry :
    regsOf (step (stateOf true { regsAt .abort 12#6 0 with err := true, errCode := .transmit, errBit := 12#6 } quiet)) =
      some { regsAt .high 0#6 0 with err := true, errCode := .transmit, errBit := 12#6 } ∧
    regsOf (step (stateOf true { regsAt .abort 12#6 0 with cancel := true } quiet)) =
      some { regsAt .rel 12#6 0 with cancel := true } := by decide

/-- V31. -/
theorem test_step_reset :
    regsOf (step (stateWith .low 59#6 7 { quiet with rst := true })) = some Regs.reset := by decide

/-- A placed word is the next one run, from reset. -/
theorem test_placed_word_runs : regsOf (step (State.reset.withFetchWord 8 2)) = some { Regs.reset with st := .config } := by
  decide

/-! ### Witnesses of the statements' hypotheses -/

theorem test_witness_EncodeDeliversTheField :
    0 < 1 ∧ (funcOf (exec (.encode 7 1) State.reset)).map FuncResults.bits = some (encodeBySteps 7 1) := by decide

theorem test_witness_EncodeFollowsTheFiveSteps : 0 < 1 ∧ bcdEncode 7 1 = [true] := by decide

theorem test_witness_EncodeTruncatesInSilence : 0 < 8 ∧ bcdOverflow 100 8 = true ∧ bcdOverflow 99 8 = false := by decide

/-- Both sides of each bound (95 S3): 99 and 100 at width 8, 19999 and 20000 at width 17. -/
theorem test_witness_EncodedValuesReadBack :
    (0 < 2 ∧ bcdDecode 2 (bcdEncode 99 8) = 99 ∧ bcdDecode 2 (bcdEncode 100 8) ≠ 100) ∧
    (17 % 4 ≠ 0 ∧ bcdDecode 5 (padToNibbles (bcdEncode 19999 17)) = 19999 ∧
      bcdDecode 5 (padToNibbles (bcdEncode 20000 17)) ≠ 20000) := by decide

theorem test_witness_FieldsAreWrittenElementZeroFirst : 0 < 60 ∧ 59 < 60 := by decide

theorem test_witness_FieldsTogetherMakeTheBuiltFrame : State.reset.func.frame = 0x4010040100401#60 := by decide

theorem test_witness_BuiltFramesHaveConstantBits : 1 ≤ (366#9).toNat ∧ (366#9).toNat ≤ 366 := by decide

/-- 95 section 2.2: days 1 and 41, 239 and 279. -/
theorem test_witness_DaysThatShareASignal :
    ((∀ q, q < 5 → q ≠ 1 → digit 1 q = digit 41 q) ∧
      ∀ k, k < 4 → ((digit 1 1).testBit k = (digit 41 1).testBit k ↔ k ≠ 2)) ∧
    ((∀ q, q < 5 → q ≠ 1 → digit 239 q = digit 279 q) ∧
      ∀ k, k < 4 → ((digit 239 1).testBit k = (digit 279 1).testBit k ↔ k ≠ 2)) := by decide

/-- A failing answer is read in none of the quiet states. -/
theorem quiet_no_fault (st : St) (bit : BitIdx) (cyc : Nat) : ¬ FaultRead (stateAt st bit cyc) :=
  fun h => absurd (show false = true from h.1) (by decide)

/-- Each clause, for each symbol, at its first and its last cycle. -/
theorem test_witness_SymbolsTimeTheirPhases :
    (stateAt .high 0#6 0).ports.rst = false ∧ (¬ FaultRead (stateAt .high 0#6 0)) ∧ (¬ FaultRead (stateAt .low 0#6 1)) ∧
    (0 < 8 * 1 - 1 ∧ 7 = 8 * 1 - 1 ∧ 0 < 2 * 1 - 1 ∧ 1 = 2 * 1 - 1 ∧ 0 < 5 * 1 - 1 ∧ 4 = 5 * 1 - 1) ∧
    (stateAt .high 0#6 0).params.tickDiv = 1 :=
  ⟨rfl, quiet_no_fault _ _ _, quiet_no_fault _ _ _, by decide, rfl⟩

/-- 95 section 2.2: the frames of days 1 and 41. -/
theorem test_witness_MarkerBitsNeverReachTheLine :
    (stateAt .high 0#6 0).queue = [] ∧ SameOffMarkers 0x4400000000001#60 0x4410000000001#60 ∧
    (0x4400000000001#60 : Frame) ≠ 0x4410000000001#60 :=
  ⟨rfl, by unfold SameOffMarkers; decide, by decide⟩

theorem test_witness_StepIsTheListing : State.reset.queue = [] := rfl

theorem test_witness_CommandsAreTheInputLevels :
    (Instr.cmdStop true = .cmdNop ∧ true = false ∧ true = false) ∨ (Instr.cmdStop true = .cmdStart ∧ true = true ∧ true = false) ∨
      (Instr.cmdStop true = .cmdStop true ∧ true = true) := by decide

theorem test_witness_StatesAreTheListingsBranches :
    (Instr.stRel = .stIdle ∧ St.rel = .idle) ∨ (Instr.stRel = .stConfig ∧ St.rel = .config) ∨
      (Instr.stRel = .stHigh ∧ St.rel = .high) ∨ (Instr.stRel = .stLow ∧ St.rel = .low) ∨
      (Instr.stRel = .stAbort ∧ St.rel = .abort) ∨ (Instr.stRel = .stRel ∧ St.rel = .rel) := by decide

theorem test_witness_SinkOperationsAreAskedAndAnswered :
    (Instr.sinkSet = .sinkNone ∧ SinkOp.set = .none) ∨ (Instr.sinkSet = .sinkConfigure ∧ SinkOp.set = .configure) ∨
      (Instr.sinkSet = .sinkSet ∧ SinkOp.set = .set) ∨ (Instr.sinkSet = .sinkRelease ∧ SinkOp.set = .release) := by decide

theorem test_witness_ReservedErrorsAreNeverRaised : State.reset.queue = [] ∧ ∃ t, step State.reset = .next t := ⟨rfl, _, rfl⟩

theorem test_witness_EveryWordYieldsToReset :
    (stateWith .low 59#6 7 { quiet with rst := true }).ports.rst = true ∧ Instr.errTransmit ∈ [Instr.errIoConfig, .errTransmit] := by
  decide

theorem test_witness_ResetOverridesEverything :
    (stateWith .low 59#6 7 { quiet with rst := true }).ports.rst = true ∧
    (stateWith .low 59#6 7 { quiet with rst := true }).queue = [] := ⟨rfl, rfl⟩

theorem test_witness_IdleAcceptsAStart :
    (stateWith .idle 0#6 0 { quiet with start := true }).regs.st = .idle ∧
    (stateWith .idle 0#6 0 { quiet with start := true }).ports.rst = false ∧
    (stateWith .idle 0#6 0 { quiet with start := true }).queue = [] ∧
    (stateWith .idle 0#6 0 { quiet with start := true }).ports.start = true ∧
    (stateWith .idle 0#6 0 { quiet with start := true }).ports.stop = false := ⟨rfl, rfl, rfl, rfl, rfl⟩

theorem test_witness_IdleOtherwiseForgetsACancellation :
    (stateAt .idle 0#6 0).regs.st = .idle ∧ (stateAt .idle 0#6 0).ports.rst = false ∧ (stateAt .idle 0#6 0).queue = [] ∧
    ¬ ((stateAt .idle 0#6 0).ports.start = true ∧ (stateAt .idle 0#6 0).ports.stop = false) := by decide

theorem test_witness_ConfigureErrorIsTaken :
    (stateWith .config 0#6 0 { quiet with sinkFault := true }).regs.st = .config ∧
    (stateWith .config 0#6 0 { quiet with sinkFault := true }).ports.rst = false ∧
    (stateWith .config 0#6 0 { quiet with sinkFault := true }).queue = [] ∧
    (stateWith .config 0#6 0 { quiet with sinkFault := true }).ports.sinkFault = true := ⟨rfl, rfl, rfl, rfl⟩

theorem test_witness_ConfigCancelledReleases :
    (stateWith .config 0#6 0 { quiet with stop := true }).regs.st = .config ∧
    (stateWith .config 0#6 0 { quiet with stop := true }).ports.rst = false ∧
    (stateWith .config 0#6 0 { quiet with stop := true }).queue = [] ∧
    (stateWith .config 0#6 0 { quiet with stop := true }).ports.sinkFault = false ∧
    (stateWith .config 0#6 0 { quiet with stop := true }).ports.stop = true := ⟨rfl, rfl, rfl, rfl, rfl⟩

theorem test_witness_ConfigBeginsTheFirstFrame :
    (stateAt .config 0#6 0).regs.st = .config ∧ (stateAt .config 0#6 0).ports.rst = false ∧ (stateAt .config 0#6 0).queue = [] ∧
    (stateAt .config 0#6 0).ports.sinkFault = false ∧ (stateAt .config 0#6 0).regs.cancel = false ∧
    (stateAt .config 0#6 0).ports.stop = false := ⟨rfl, rfl, rfl, rfl, rfl, rfl⟩

theorem test_witness_HighPhaseCountsAndEnds :
    (stateAt .high 1#6 0).regs.st = .high ∧ (stateAt .high 1#6 0).ports.rst = false ∧ (stateAt .high 1#6 0).queue = [] ∧
    (¬ FaultRead (stateAt .high 1#6 0)) ∧ (¬ FaultRead (stateAt .high 1#6 1)) ∧
    0 < hiLen (stateAt .high 1#6 0).params (symOf (regsAt .high 1#6 0)) - 1 ∧
    1 = hiLen (stateAt .high 1#6 1).params (symOf (regsAt .high 1#6 1)) - 1 :=
  ⟨rfl, rfl, rfl, quiet_no_fault _ _ _, quiet_no_fault _ _ _, by decide, by decide⟩

theorem test_witness_LowPhaseCounts :
    (stateAt .low 1#6 6).regs.st = .low ∧ (stateAt .low 1#6 6).ports.rst = false ∧ (stateAt .low 1#6 6).queue = [] ∧
    (¬ FaultRead (stateAt .low 1#6 6)) ∧
    6 < loLen (stateAt .low 1#6 6).params (symOf (regsAt .low 1#6 6)) - 1 :=
  ⟨rfl, rfl, rfl, quiet_no_fault _ _ _, by decide⟩

/-- The three clauses: V18, V20, and the boundary between bits 58 and 59. -/
theorem test_witness_BitBoundaryChooses :
    (stateAt .low 59#6 7).ports.rst = false ∧ (stateAt .low 59#6 7).queue = [] ∧
    7 = loLen (stateAt .low 59#6 7).params (symOf (regsAt .low 59#6 7)) - 1 ∧
    7 = loLen (stateAt .low 58#6 7).params (symOf (regsAt .low 58#6 7)) - 1 ∧
    ((stateAt .low 59#6 7).regs.cancel || (stateAt .low 59#6 7).ports.stop) = false ∧
    ((stateWith .low 59#6 7 { quiet with stop := true }).regs.cancel ||
      (stateWith .low 59#6 7 { quiet with stop := true }).ports.stop) = true ∧ (58#6 : BitIdx) ≠ 59#6 := by decide

theorem test_witness_AbortEntryRecordsTheBit :
    (stateWith .low 59#6 0 { quiet with sinkFault := true }).regs.st = .low ∧
    (stateWith .low 59#6 0 { quiet with sinkFault := true }).regs.cyc = 0 ∧
    (stateWith .low 59#6 0 { quiet with sinkFault := true }).ports.sinkFault = true ∧
    (stateWith .low 59#6 0 { quiet with sinkFault := true }).ports.rst = false ∧
    (stateWith .low 59#6 0 { quiet with sinkFault := true }).queue = [] := ⟨rfl, rfl, rfl, rfl, rfl⟩

/-- Both clauses: with retry and no cancellation, and without retry. -/
theorem test_witness_AbortRetriesOrReleases :
    ((stateOf true (regsAt .abort 12#6 0) quiet).params.retryOnIoErr = true ∧ (regsAt .abort 12#6 0).cancel = false ∧
      quiet.stop = false ∧ quiet.rst = false) ∧
    (stateAt .abort 12#6 0).params.retryOnIoErr = false ∧ (stateAt .abort 12#6 0).queue = [] := by decide

theorem test_witness_ReleaseReturnsToIdle :
    (stateAt .rel 3#6 0).regs.st = .rel ∧ (stateAt .rel 3#6 0).ports.rst = false ∧ (stateAt .rel 3#6 0).queue = [] :=
  ⟨rfl, rfl, rfl⟩

theorem test_witness_StopIsLatchedWhileRunning :
    (stateAt .abort 12#6 0).regs.st ∈ [.config, .high, .low, .abort] ∧ (stateAt .abort 12#6 0).ports.rst = false ∧
    (stateAt .abort 12#6 0).queue = [] := by decide

theorem test_witness_StartIsIgnoredWhileBusy : (stateAt .rel 3#6 0).regs.st ≠ .idle ∧ (stateAt .rel 3#6 0).queue = [] := by decide

/-- Both clauses: no reading with `cyc` at 1, and a reading in each kind of cycle. -/
theorem test_witness_FaultIsReadOnlyWhereNamed :
    (stateAt .high 5#6 1).queue = [] ∧ (stateAt .high 5#6 1).ports.rst = false ∧
    (¬ ((stateAt .high 5#6 1).regs.st = .config ∨
      ((stateAt .high 5#6 1).regs.st = .high ∧ (stateAt .high 5#6 1).regs.cyc = 0) ∨
      ((stateAt .high 5#6 1).regs.st = .low ∧ (stateAt .high 5#6 1).regs.cyc = 0))) ∧
    FaultRead (stateWith .config 0#6 0 { quiet with sinkFault := true }) ∧
    FaultRead (stateWith .high 5#6 0 { quiet with sinkFault := true }) ∧
    FaultRead (stateWith .low 5#6 0 { quiet with sinkFault := true }) := by
  unfold FaultRead; decide

theorem test_witness_ErrorStatusIsSticky :
    (stateWith .idle 0#6 0 { quiet with start := true }).queue = [] ∧
    (stateWith .idle 0#6 0 { quiet with rst := true }).ports.rst = true ∧
    (stateWith .idle 0#6 0 { quiet with start := true }).ports.rst = false ∧
    FaultRead (stateWith .low 59#6 0 { quiet with sinkFault := true }) ∧
    ((stateWith .idle 0#6 0 { quiet with start := true }).regs.st = .idle ∧
      (stateWith .idle 0#6 0 { quiet with start := true }).ports.start = true ∧
      (stateWith .idle 0#6 0 { quiet with start := true }).ports.stop = false) ∧
    (¬ FaultRead (stateAt .idle 0#6 0)) ∧
    ¬ ((stateAt .idle 0#6 0).regs.st = .idle ∧ (stateAt .idle 0#6 0).ports.start = true ∧
      (stateAt .idle 0#6 0).ports.stop = false) := by
  unfold FaultRead; decide

theorem test_witness_DoneMarksACompletedFrame :
    (stateAt .low 59#6 7).queue = [] ∧ (stateAt .low 59#6 7).ports.rst = false ∧ (stateAt .low 59#6 7).regs.st = .low ∧
    (stateAt .low 59#6 7).regs.cyc = loLen (stateAt .low 59#6 7).params (symOf (stateAt .low 59#6 7).regs) - 1 ∧
    (stateAt .low 59#6 7).regs.bitIdx = 59#6 ∧ ¬ FaultRead (stateAt .low 59#6 7) := by
  unfold FaultRead; decide

/-- The three places of R125, and a cycle of the boundary before the last bit, which is none of them. -/
theorem test_witness_FrameIsWrittenOnlyByBeginFrame :
    BeginsFrame (stateAt .config 0#6 0) ∧ BeginsFrame (stateAt .low 59#6 7) ∧
    BeginsFrame (stateOf true (regsAt .abort 12#6 0) quiet) ∧ (¬ BeginsFrame (stateAt .low 58#6 7)) ∧
    (¬ BeginsFrame (stateAt .abort 12#6 0)) ∧ (stateAt .low 58#6 7).queue = [] ∧ (stateAt .low 58#6 7).ports.rst = false := by
  unfold BeginsFrame; decide

theorem test_witness_LayersStayApart :
    (∃ t, exec .digit7 State.reset = .next t) ∧ (∃ t, exec .cmdStart State.reset = .next t) ∧
    (encode .digit7).place ∈ [.encode, .build, .render, .sym, .frame, .fieldSec, .fieldMin, .fieldHour, .fieldDoy, .digit] ∧
    (encode .cmdStart).place ∈ [.symsel, .cmd, .sinkop, .st, .err] := ⟨⟨_, rfl⟩, ⟨_, rfl⟩, by decide, by decide⟩

theorem test_witness_ResetWhileRunningIssuesNoRelease :
    (stateWith .high 5#6 0 { quiet with rst := true }).queue = [] ∧
    (stateWith .high 5#6 0 { quiet with rst := true }).ports.rst = true ∧
    (stateWith .high 5#6 0 { quiet with rst := true }).regs.st ∈ [.config, .high, .low, .abort] := by decide

/-- A built frame. -/
theorem frameF_built : ∃ smp : Sample, frameF = buildSample smp :=
  ⟨{ sec := 9#6, min := 0#6, hour := 0#5, doy := 1#9 }, by decide⟩

/-- The invariant of the registers holds of a state of each phase, whatever the inputs. -/
theorem inv_of_phase (st : St) (bit : BitIdx) (cyc : Nat) (i : Inputs) (hs : st = .high ∨ st = .low) (hb : bit.toNat ≤ 59)
    (h1 : st = .high → cyc < hiLen { tickDivPred := 0, retryOnIoErr := false } (symOf (regsAt st bit cyc)))
    (h2 : st = .low → cyc < loLen { tickDivPred := 0, retryOnIoErr := false } (symOf (regsAt st bit cyc))) :
    Inv (stateWith st bit cyc i) := by
  refine ⟨rfl, ⟨hb, Nat.zero_le _, ?_, h1, h2, fun _ => frameF_built, fun _ => ⟨rfl, rfl⟩, ?_, ?_, ?_, ?_⟩⟩
  · intro a b; rcases hs with rfl | rfl <;> contradiction
  · intro h; cases h
  · intro h; cases h
  · intro h; cases h
  · intro h; rcases hs with rfl | rfl <;> rfl

/-- The first cycle of bit 0 and the last cycle of bit 59; both can take a step. -/
theorem test_witness_RegisterInvariantIsKept :
    Inv (stateAt .high 0#6 0) ∧ Inv (stateAt .low 59#6 7) ∧ (∃ t, step (stateAt .low 59#6 7) = .next t) :=
  ⟨inv_of_phase _ _ _ _ (by decide) (by decide) (by decide) (by decide),
   inv_of_phase _ _ _ _ (by decide) (by decide) (by decide) (by decide), _, rfl⟩

/-- The same state with the calls of a run to its last cycle, and one in the first cycle of a low phase. -/
theorem test_witness_SinkCallsStayInOrder :
    (Inv { stateAt .low 59#6 7 with calls := [{ op := .set, level := false }, { op := .configure, level := false }] } ∧
      NoReset { stateAt .low 59#6 7 with calls := [{ op := .set, level := false }, { op := .configure, level := false }] } ∧
      SinkInOrder { stateAt .low 59#6 7 with calls := [{ op := .set, level := false }, { op := .configure, level := false }] }) ∧
    SinkInOrder { stateAt .low 0#6 0 with calls := [{ op := .set, level := true }, { op := .configure, level := false }] } := by
  have h : Inv (stateAt .low 59#6 7) := inv_of_phase _ _ _ _ (by decide) (by decide) (by decide) (by decide)
  refine ⟨⟨⟨rfl, h.2⟩, ⟨rfl, by intro i hi; cases hi⟩, ⟨{ held := true, level := false }, by decide, ?_⟩⟩,
    ⟨{ held := true, level := true }, by decide, ?_⟩⟩
  · show true = true ∧ (false = true ↔ (7 : Nat) = 0); decide
  · show true = true ∧ (true = true ↔ (0 : Nat) = 0); decide

/-- Quiet inputs held for ever, from the first cycle of a frame. -/
theorem test_witness_WaveformOfAFrame :
    (stateAt .high 0#6 0).queue = [] ∧ (stateAt .high 0#6 0).regs.st = .high ∧ (stateAt .high 0#6 0).regs.bitIdx = 0#6 ∧
    (stateAt .high 0#6 0).regs.cyc = 0 ∧ (stateAt .high 0#6 0).regs.cancel = false ∧
    ∀ k, k < 600 * (stateAt .high 0#6 0).params.tickDiv →
      (inputOf (stateAt .high 0#6 0) k).rst = false ∧ (inputOf (stateAt .high 0#6 0) k).stop = false ∧
      (k % (10 * (stateAt .high 0#6 0).params.tickDiv) = 0 ∨
        k % (10 * (stateAt .high 0#6 0).params.tickDiv) =
          hiLen (stateAt .high 0#6 0).params
            (sym (stateAt .high 0#6 0).regs.frame (k / (10 * (stateAt .high 0#6 0).params.tickDiv))) →
          (inputOf (stateAt .high 0#6 0) k).sinkFault = false) := by
  refine ⟨rfl, rfl, rfl, rfl, rfl, fun k _ => ?_⟩
  rw [inputOf_held rfl]
  exact ⟨rfl, rfl, fun _ => rfl⟩

/-- Both clauses: a stop in the first high cycle, and in the last low cycle while `sink_fault_i` is held at 1. -/
theorem test_witness_CancellationWithinOneBit :
    (Inv (stateWith .high 5#6 0 { quiet with stop := true }) ∧
      (∀ k, k < 10 * (stateWith .high 5#6 0 { quiet with stop := true }).params.tickDiv →
        (inputOf (stateWith .high 5#6 0 { quiet with stop := true }) k).rst = false) ∧
      (stateWith .high 5#6 0 { quiet with stop := true }).ports.sinkFault = false ∧
      (inputOf (stateWith .high 5#6 0 { quiet with stop := true }) (5 - 0)).sinkFault = false) ∧
    Inv (stateWith .low 5#6 4 { quiet with stop := true, sinkFault := true }) ∧
    (∀ k, k < 10 * (stateWith .low 5#6 4 { quiet with stop := true, sinkFault := true }).params.tickDiv →
      (inputOf (stateWith .low 5#6 4 { quiet with stop := true, sinkFault := true }) k).rst = false) ∧
    (stateWith .low 5#6 4 { quiet with stop := true, sinkFault := true }).regs.cyc ≠ 0 := by
  refine ⟨⟨inv_of_phase _ _ _ _ (by decide) (by decide) (by decide) (by decide), fun k _ => ?_, rfl, rfl⟩,
    inv_of_phase _ _ _ _ (by decide) (by decide) (by decide) (by decide), fun k _ => ?_, by decide⟩
  · rw [inputOf_held rfl]; rfl
  · rw [inputOf_held rfl]; rfl

/-- The five words of a cycle in `CONFIG`. -/
theorem test_witness_CycleRunsEveryWordInItsPlace :
    (stateAt .config 0#6 0).queue = [] ∧ decode (word .st St.config.code.toNat) = .ok .stConfig ∧
    decode (word .sinkop (sinkOpOf (regsAt .config 0#6 0)).code.toNat) = .ok .sinkConfigure := by decide

/-- Each clause: nothing queued, a word queued, a word that is none, and a word of the table. -/
theorem test_witness_StepRunsTheDecodedWord :
    decode (commandWord State.reset.ports) = .ok .cmdNop ∧
    ({ State.reset with queue := [word .st 5] } : State).queue = [word .st 5] ∧ decode (word .st 5) = .ok .stRel ∧
    decode (word .st 6) = .error .unusedStateCode ∧ decodeTableWord 8 2 = some .cmdStart := by decide

theorem test_witness_DecodeOfEncodeIsTheInstruction :
    (Instr.encode 0 1).wf = true ∧ (Instr.sym frameF 59).wf = true ∧ (Instr.fieldDoy true 9 9 9 9).wf = true := by decide

theorem test_witness_EncodeOfDecodeIsTheWord :
    decode (word .frame 0x4400000000121) = .ok (.frame 0b10010000#8 0#8 0#8 0b10000000000000000#17) := by decide

/-- Each clause at a boundary; of the fields, one word for each nibble. -/
theorem test_witness_UnusedCodesAreRefused :
    (10 ≤ 15 ∧ 15 < 16) ∧ (0xA0 < 2 ^ 8 ∧ 10 ≤ 0xA0 / 2 ^ 4) ∧ (0x9A < 2 ^ 8 ∧ 10 ≤ 0x9A % 2 ^ 4) ∧
    (0x1FFFF < 2 ^ 17 ∧ 10 ≤ 0x1FFFF / 2 ^ 12 % 2 ^ 4) ∧ 10 ≤ 0x00A00 / 2 ^ 8 % 2 ^ 4 ∧ 10 ≤ 0x000A0 / 2 ^ 4 % 2 ^ 4 ∧
    10 ≤ 0x0000A % 2 ^ 4 ∧ (6 ≤ 7 ∧ 7 < 8) ∧ (5 ≤ 7 ∧ 7 < 8) ∧ 3 < 4 := by decide

end Sys2Proof.Tests
end

/-! ## The two layers (O44) -/

namespace Sys2Proof.Machine

/-- The places of the functional layer (R8): what stands there is a pure function, delivered to the observer (log 2). The
other places are those of the sequential layer, where an operation is one clock cycle (log 1). -/
def isFunctional : Place → Bool
  | .encode | .build | .render | .sym | .frame | .fieldSec | .fieldMin | .fieldHour | .fieldDoy | .digit => true
  | .symsel | .cmd | .sinkop | .st | .err => false

theorem isFunctional_eq_true_of_mem {p : Place}
    (h : p ∈ [.encode, .build, .render, .sym, .frame, .fieldSec, .fieldMin, .fieldHour, .fieldDoy, .digit]) :
    isFunctional p = true := by
  revert p; decide

theorem isFunctional_eq_false_of_mem {p : Place} (h : p ∈ [.symsel, .cmd, .sinkop, .st, .err]) :
    isFunctional p = false := by
  revert p; decide

/-- From `s` to `t` a result of the functional layer is delivered, and nothing else happens. -/
def DeliversOnly (s t : State) : Prop := ∃ f, t = { s with func := f }

/-- From `s` to `t` one clock cycle ends, whatever the registers, the operation shown and the next registers. -/
def EndsOneCycle (s t : State) : Prop := ∃ shown op next, t = s.endCycle shown op next

/-- `ENCODE` completes only by delivering a field. -/
theorem execEncode_delivers {value width : Nat} {s t : State} (h : execEncode value width s = .next t) :
    DeliversOnly s t := by
  unfold execEncode at h
  split at h
  · cases h
  · cases h; exact ⟨_, rfl⟩

/-- Everything an operation can do to the state, by the layer of its place. -/
theorem exec_cases {i : Instr} {s t : State} (h : exec i s = .next t) :
    (isFunctional (encode i).place = true ∧ DeliversOnly s t) ∨
    (isFunctional (encode i).place = false ∧ EndsOneCycle s t) := by
  cases i with
  | encode value width => exact .inl ⟨rfl, execEncode_delivers h⟩
  | build _ | render _ | sym _ _ | frame _ _ _ _ | fieldSec _ _ | fieldMin _ _ | fieldHour _ _ | fieldDoy _ _ _ _ _
  | digit0 | digit1 | digit2 | digit3 | digit4 | digit5 | digit6 | digit7 | digit8 | digit9 =>
    cases h; exact .inl ⟨rfl, _, rfl⟩
  | symMark _ | symOne | symZero | cmdNop | cmdStart | cmdStop _
  | sinkNone | sinkConfigure | sinkSet | sinkRelease
  | stIdle | stConfig | stHigh | stLow | stAbort | stRel
  | errNone | errIoConfig | errTransmit =>
    cases h; exact .inr ⟨rfl, _, _, _, rfl⟩
  | errEncoding | errInvariant => cases h

end Sys2Proof.Machine

namespace Sys2Proof.Proofs

open Sys2Proof.Machine

/-- Settles O44: an operation of the functional layer delivers a result, one of the sequential layer ends one cycle, and the
place of its word says which. -/
theorem layersStayApart : Obligations.LayersStayApart := by
  unfold Obligations.LayersStayApart
  intro i s t h
  obtain ⟨hplace, f, rfl⟩ | ⟨hplace, shown, op, next, rfl⟩ := exec_cases h
  · refine ⟨rfl, rfl, fun _ => ⟨rfl, rfl, rfl, rfl⟩, fun hmem => ?_⟩
    simp [isFunctional_eq_false_of_mem hmem] at hplace
  · refine ⟨s.endCycle_params shown op next, s.endCycle_queue shown op next, fun hmem => ?_, fun _ => ?_⟩
    · simp [isFunctional_eq_true_of_mem hmem] at hplace
    · simp

end Sys2Proof.Proofs

/-! ## The registers (10): O47, O18, O41, O42, O51, O45, O48 -/

namespace Sys2Proof.Machine

open Sys2Proof.Safety

/-! ### Phases and the line -/

theorem hiLen_pos (p : Params) (y : Symbol) : 0 < hiLen p y := Nat.lt_of_lt_of_le Nat.two_pos (two_le_hiLen p y)

theorem loLen_pos (p : Params) (y : Symbol) : 0 < loLen p y := Nat.lt_of_lt_of_le Nat.two_pos (two_le_loLen p y)

theorem hiLen_le (p : Params) (y : Symbol) : hiLen p y ≤ 8 * p.tickDiv :=
  Nat.mul_le_mul_right _ (hiTicks_bounds y).2

theorem loLen_le (p : Params) (y : Symbol) : loLen p y ≤ 8 * p.tickDiv :=
  Nat.mul_le_mul_right _ (Nat.sub_le_sub_left (hiTicks_bounds y).1 _)

/-- The line is driven wherever it is high, in every state (R29). -/
theorem lineOeOf_of_lineOf {r : Regs} (h : lineOf r = true) : lineOeOf r = true := by
  have hs : r.st = .high := of_decide_eq_true h
  simp [lineOeOf, hs]

/-! ### `done` and the error status, rule by rule (R26, R27) -/

@[simp] theorem idleRule_done (r : Regs) (i : Inputs) : (idleRule r i).done = false := by
  unfold idleRule; split <;> rfl

@[simp] theorem configRule_done (r : Regs) (i : Inputs) : (configRule r i).done = false := by
  unfold configRule; split <;> rfl

@[simp] theorem highRule_done (p : Params) (r : Regs) (i : Inputs) (y : Symbol) : (highRule p r i y).done = false := by
  unfold highRule; split <;> rfl

@[simp] theorem leaveAbort_done (p : Params) (r : Regs) (i : Inputs) : (leaveAbort p r i).done = false := by
  unfold leaveAbort; split <;> rfl

@[simp] theorem bitBoundary_done (r : Regs) (i : Inputs) : (bitBoundary r i).done = doneAtBoundary r := by
  unfold bitBoundary
  split
  · rfl
  · split <;> rfl

theorem lowRule_done_iff (p : Params) (r : Regs) (i : Inputs) (y : Symbol) :
    (lowRule p r i y).done = true ↔ r.cyc = loLen p y - 1 ∧ r.bitIdx = 59#6 := by
  unfold lowRule
  split
  case isTrue hc => simp [doneAtBoundary, hc]
  case isFalse hc => simp [hc]

/-- `err`, `err_code` and `err_bit`, which are written together (R26). -/
def Regs.errorStatus (r : Regs) : Bool × ErrCode × BitIdx := (r.err, r.errCode, r.errBit)

theorem idleRule_errorStatus (r : Regs) (i : Inputs) :
    (idleRule r i).errorStatus = if i.start = true ∧ i.stop = false then (false, .none, 0#6) else r.errorStatus := by
  cases hstart : i.start <;> cases hstop : i.stop <;> simp [idleRule, Regs.errorStatus, hstart, hstop]

@[simp] theorem configRule_errorStatus (r : Regs) (i : Inputs) : (configRule r i).errorStatus = r.errorStatus := by
  unfold configRule; split <;> rfl

@[simp] theorem highRule_errorStatus (p : Params) (r : Regs) (i : Inputs) (y : Symbol) :
    (highRule p r i y).errorStatus = r.errorStatus := by
  unfold highRule; split <;> rfl

@[simp] theorem bitBoundary_errorStatus (r : Regs) (i : Inputs) : (bitBoundary r i).errorStatus = r.errorStatus := by
  unfold bitBoundary
  split
  · rfl
  · split <;> rfl

@[simp] theorem lowRule_errorStatus (p : Params) (r : Regs) (i : Inputs) (y : Symbol) :
    (lowRule p r i y).errorStatus = r.errorStatus := by
  unfold lowRule
  split
  · exact bitBoundary_errorStatus r i
  · rfl

@[simp] theorem leaveAbort_errorStatus (p : Params) (r : Regs) (i : Inputs) :
    (leaveAbort p r i).errorStatus = r.errorStatus := by
  unfold leaveAbort; split <;> rfl

/-- A failing answer that is read is taken: the configure error in `CONFIG`, the abort entry in a phase (R143). -/
theorem stepRegs_of_faultRead {s : State} (hr : s.ports.rst = false) (h : FaultRead s) :
    stepRegs s.params s.regs s.ports =
      if s.regs.st = .config then raiseConfigError s.regs s.ports else raiseTransmitError s.regs s.ports := by
  obtain ⟨hf, hs | ⟨hs, hc⟩ | ⟨hs, hc⟩⟩ := h
  · rw [stepRegs_config hr hs, if_pos hf, if_pos hs]
  · rw [stepRegs_high hr hs, if_pos ⟨hf, hc⟩, if_neg (by simp [hs])]
  · rw [stepRegs_low hr hs, if_pos ⟨hf, hc⟩, if_neg (by simp [hs])]

/-- With no failing answer read, only an accepted start changes the error status (R26). -/
theorem stepRegs_errorStatus_of_not_faultRead {s : State} (hr : s.ports.rst = false) (h : ¬ FaultRead s) :
    (stepRegs s.params s.regs s.ports).errorStatus =
      if s.regs.st = .idle ∧ s.ports.start = true ∧ s.ports.stop = false then (false, .none, 0#6)
      else s.regs.errorStatus := by
  unfold FaultRead at h
  cases hs : s.regs.st with
  | idle => simp [stepRegs_idle hr hs, idleRule_errorStatus]
  | config =>
    have hf : ¬ s.ports.sinkFault = true := fun hf => h ⟨hf, .inl hs⟩
    simp [stepRegs_config hr hs, hf]
  | high =>
    have hf : ¬ (s.ports.sinkFault = true ∧ s.regs.cyc = 0) := fun ⟨hf, hc⟩ => h ⟨hf, .inr (.inl ⟨hs, hc⟩)⟩
    simp [stepRegs_high hr hs, hf]
  | low =>
    have hf : ¬ (s.ports.sinkFault = true ∧ s.regs.cyc = 0) := fun ⟨hf, hc⟩ => h ⟨hf, .inr (.inr ⟨hs, hc⟩)⟩
    simp [stepRegs_low hr hs, hf]
  | abort => simp [stepRegs_abort hr hs]
  | rel => simp [stepRegs_rel hr hs, Regs.errorStatus]

/-- `done` follows the last cycle of bit 59 (R27); the first cycle of a low phase is never its last. -/
theorem stepRegs_done_iff (p : Params) (r : Regs) {i : Inputs} (hr : i.rst = false) :
    (stepRegs p r i).done = true ↔ r.st = .low ∧ r.cyc = loLen p (symOf r) - 1 ∧ r.bitIdx = 59#6 := by
  cases hs : r.st with
  | idle => simp [stepRegs_idle hr hs]
  | config => rw [stepRegs_config hr hs]; split <;> simp
  | high => rw [stepRegs_high hr hs]; split <;> simp
  | low =>
    rw [stepRegs_low hr hs]
    split
    case isTrue hf =>
      have hlen := two_le_loLen p (symOf r)
      have hnot : r.cyc ≠ loLen p (symOf r) - 1 := by omega
      simp [hnot]
    case isFalse => simp [lowRule_done_iff]
  | abort => simp [stepRegs_abort hr hs]
  | rel => simp [stepRegs_rel hr hs]

/-- The last cycle of a low phase reads no answer, since the phase has two cycles at least (R105, R143). -/
theorem not_faultRead_of_last_low {s : State} (hs : s.regs.st = .low)
    (hc : s.regs.cyc = loLen s.params (symOf s.regs) - 1) : ¬ FaultRead s := by
  have hlen := two_le_loLen s.params (symOf s.regs)
  have hpos : s.regs.cyc ≠ 0 := by omega
  simp [FaultRead, hs, hpos]

end Sys2Proof.Machine

namespace Sys2Proof.Safety

open Sys2Proof.Machine

/-! ### The step function and its listing (44 section 4) -/

theorem listingBeginFrame_eq (n : Regs) (i : Inputs) : listingBeginFrame n i = n.beginFrame i := rfl

section
variable {p : Params} {r : Regs} {i : Inputs}

theorem listing_reset (hr : i.rst = true) : listing p r i = Regs.reset := if_pos hr

theorem listing_idle (hr : i.rst = false) (hs : r.st = .idle) : listing p r i = idleRule r i := by
  simp [listing, hr, hs, idleRule, Regs.clearError]

/-- The failing answer first, then a cancellation, then the first frame. -/
theorem listing_config (hr : i.rst = false) (hs : r.st = .config) :
    listing p r i = if i.sinkFault = true then raiseConfigError r i else configRule r i := by
  cases hq : r.cancel || i.stop <;>
    simp [listing, hr, hs, configRule, cancelReq, hq, raiseConfigError, takeError, Regs.recordError,
      listingBeginFrame_eq, Regs.beginFrame]

theorem listing_high (hr : i.rst = false) (hs : r.st = .high) :
    listing p r i = if i.sinkFault = true ∧ r.cyc = 0 then raiseTransmitError r i else highRule p r i (symOf r) := by
  simp [listing, hr, hs, and_comm, raiseTransmitError, takeError, Regs.recordError, cancelReq, highRule, hiLen, symOf]

theorem listing_low (hr : i.rst = false) (hs : r.st = .low) :
    listing p r i = if i.sinkFault = true ∧ r.cyc = 0 then raiseTransmitError r i else lowRule p r i (symOf r) := by
  simp [listing, hr, hs, and_comm, raiseTransmitError, takeError, Regs.recordError, cancelReq, lowRule, bitBoundary,
    doneAtBoundary, loLen, loTicks, Config.bitTicks, symOf, listingBeginFrame_eq, Regs.beginFrame]

theorem listing_abort (hr : i.rst = false) (hs : r.st = .abort) : listing p r i = leaveAbort p r i := by
  simp [listing, hr, hs, leaveAbort, cancelReq, listingBeginFrame_eq, Regs.beginFrame]

theorem listing_rel (hr : i.rst = false) (hs : r.st = .rel) : listing p r i = relRule r := by
  simp [listing, hr, hs, relRule]

/-- The block's step is the listing's, state by state. -/
theorem stepRegs_eq_listing (p : Params) (r : Regs) (i : Inputs) : stepRegs p r i = listing p r i := by
  cases hr : i.rst with
  | true => rw [stepRegs_reset hr, listing_reset hr]
  | false =>
    cases hs : r.st with
    | idle => rw [stepRegs_idle hr hs, listing_idle hr hs]
    | config => rw [stepRegs_config hr hs, listing_config hr hs]
    | high => rw [stepRegs_high hr hs, listing_high hr hs]
    | low => rw [stepRegs_low hr hs, listing_low hr hs]
    | abort => rw [stepRegs_abort hr hs, listing_abort hr hs]
    | rel => rw [stepRegs_rel hr hs, listing_rel hr hs]

end

/-! ### The invariants of the registers (R32) -/

theorem regInv_reset (p : Params) : RegInv p Regs.reset where
  bitIdx_le := Nat.zero_le _
  errBit_le := Nat.zero_le _
  cyc_idle _ _ := rfl
  cyc_high := nofun
  cyc_low := nofun
  frame_built := nofun
  status_clear _ := ⟨rfl, rfl⟩
  status_set := nofun
  config_no_tag _ := rfl
  cancel_running := nofun
  line_held := lineOeOf_of_lineOf

section
variable {p : Params} {r : Regs}

/-- A change of state that leaves `cyc` at 0 keeps the invariants: 0 is in range in every state, since no phase is empty. -/
theorem RegInv.moved (h : RegInv p r) {st : St} {f : Frame} {b : BitIdx} {c : Nat} {q d : Bool}
    (hb : b.toNat ≤ 59) (hc : c = 0) (hf : st = .high ∨ st = .low → ∃ smp, f = buildSample smp)
    (hq : q = true → st ≠ .idle) :
    RegInv p { r with st := st, frame := f, bitIdx := b, cyc := c, cancel := q, done := d } :=
  { h with
    bitIdx_le := hb
    cyc_idle := fun _ _ => hc
    cyc_high := fun _ => hc ▸ hiLen_pos ..
    cyc_low := fun _ => hc ▸ loLen_pos ..
    frame_built := hf
    cancel_running := hq
    line_held := lineOeOf_of_lineOf }

/-- A state outside the two phases asks nothing of the frame. -/
theorem RegInv.movedOut (h : RegInv p r) {st : St} {c : Nat} {q d : Bool} (hs : ¬ (st = .high ∨ st = .low)) (hc : c = 0)
    (hq : q = true → st ≠ .idle) : RegInv p { r with st := st, cyc := c, cancel := q, done := d } :=
  h.moved h.bitIdx_le hc (absurd · hs) hq

/-- `begin_frame` brings a built frame, so the phase it enters may start (R125). -/
theorem RegInv.begun (h : RegInv p r) (i : Inputs) {q d : Bool} :
    RegInv p ({ r with cancel := q, done := d }.beginFrame i) :=
  h.moved (Nat.zero_le _) rfl (fun _ => ⟨_, rfl⟩) nofun

/-- Counting a cycle that is not the last of its phase keeps the invariants (R110, R112). -/
theorem RegInv.counted (h : RegInv p r) {q d : Bool} (hs : r.st = .high ∨ r.st = .low)
    (hhi : r.st = .high → r.cyc ≠ hiLen p (symOf r) - 1) (hlo : r.st = .low → r.cyc ≠ loLen p (symOf r) - 1) :
    RegInv p { r with cyc := r.cyc + 1, cancel := q, done := d } :=
  { h with
    cyc_idle := fun h1 h2 => absurd hs (not_or.mpr ⟨h1, h2⟩)
    cyc_high := fun h' => by
      have hlt := h.cyc_high h'
      have hne := hhi h'
      show r.cyc + 1 < hiLen p (symOf r)
      omega
    cyc_low := fun h' => by
      have hlt := h.cyc_low h'
      have hne := hlo h'
      show r.cyc + 1 < loLen p (symOf r)
      omega
    cancel_running := fun _ h' => by simp [show r.st = .idle from h'] at hs }

theorem RegInv.cleared (h : RegInv p r) : RegInv p r.clearError :=
  { h with
    errBit_le := Nat.zero_le _
    status_clear := fun _ => ⟨rfl, rfl⟩
    status_set := nofun
    config_no_tag := fun _ => rfl }

/-- Recording one of the two errors that are raised keeps the invariants; the configure error has the tag 0 (R145). -/
theorem RegInv.recorded (h : RegInv p r) {code : ErrCode} {bit : BitIdx} (hbit : bit.toNat ≤ 59)
    (hcode : code = .ioConfig ∧ bit = 0#6 ∨ code = .transmit) : RegInv p (r.recordError code bit) :=
  { h with
    errBit_le := hbit
    status_clear := nofun
    status_set := fun _ => hcode.imp_left And.left
    config_no_tag := fun (h' : code = .ioConfig) => by
      obtain ⟨-, hzero⟩ | htr := hcode
      · exact hzero
      · simp [h'] at htr }

theorem RegInv.cyc_eq_zero (h : RegInv p r) (hs : ¬ (r.st = .high ∨ r.st = .low)) : r.cyc = 0 :=
  h.cyc_idle (fun h' => hs (.inl h')) (fun h' => hs (.inr h'))

/-- The phases bound the counter: none is longer than 8 ticks (R105). -/
theorem RegInv.cyc_lt (h : RegInv p r) : r.cyc < 8 * p.tickDiv := by
  by_cases hhi : r.st = .high
  · exact (h.cyc_high hhi).trans_le (hiLen_le ..)
  · by_cases hlo : r.st = .low
    · exact (h.cyc_low hlo).trans_le (loLen_le ..)
    · have hpos := tickDiv_pos p
      rw [h.cyc_idle hhi hlo]
      omega

/-- Both rules of `IDLE` keep the invariants (R121, R122). -/
theorem RegInv.of_idleRule (h : RegInv p r) (hs : r.st = .idle) (i : Inputs) : RegInv p (idleRule r i) := by
  have hc : r.cyc = 0 := h.cyc_eq_zero (by simp [hs])
  unfold idleRule
  split
  · exact h.cleared.movedOut (by decide) hc nofun
  · exact h.movedOut (by simp [hs]) hc nofun

/-- Every edge of the block keeps the invariants, by what an edge can do (`stepRegs_cases`). -/
theorem regInv_stepRegs (h : RegInv p r) (i : Inputs) : RegInv p (stepRegs p r i) := by
  cases hr : i.rst with
  | true => rw [stepRegs_reset hr]; exact regInv_reset p
  | false =>
    have hbit : r.bitIdx.toNat ≤ 59 := h.bitIdx_le
    rcases stepRegs_cases p r i hr with ⟨hs, he⟩ | ⟨hs, -, he⟩ | ⟨hs, -, -, he⟩ | ⟨-, -, -, he⟩ | ⟨-, -, -, he⟩ |
      ⟨hs, -, -, he⟩ | ⟨hs, -, hc, he⟩ | ⟨hs, -, hc, he⟩ | ⟨hs, -, -, -, he⟩ | ⟨-, -, -, -, -, he⟩ |
      ⟨hs, -, -, -, hb, he⟩ | ⟨-, -, -, he⟩ | ⟨hs, -, he⟩ | ⟨hs, he⟩ <;> rw [he]
    · -- `IDLE`
      exact h.of_idleRule hs i
    · -- the configure error
      exact (h.recorded (Nat.zero_le _) (.inl ⟨rfl, rfl⟩)).movedOut (by decide) (h.cyc_eq_zero (by simp [hs])) nofun
    · -- `CONFIG`, cancelled
      exact h.movedOut (by decide) (h.cyc_eq_zero (by simp [hs])) nofun
    · -- the first frame
      exact h.begun i
    · -- the abort entry
      exact (h.recorded hbit (.inr rfl)).movedOut (by simp) rfl nofun
    · -- the end of a high phase
      exact h.moved hbit rfl (fun _ => h.frame_built (.inl hs)) nofun
    · -- counting in a high phase
      exact h.counted (.inl hs) (fun _ => hc) (by simp [hs])
    · -- counting in a low phase
      exact h.counted (.inr hs) (by simp [hs]) (fun _ => hc)
    · -- the bit boundary, cancelled
      exact h.movedOut (by decide) rfl nofun
    · -- the next frame after bit 59
      exact h.begun i
    · -- the next bit, which is at most 59 since this one is not 59
      have hnext : (r.bitIdx + 1#6).toNat ≤ 59 := by bv_omega
      exact h.moved hnext rfl (fun _ => h.frame_built (.inr hs)) nofun
    · -- `ABORT`, retried
      exact h.begun i
    · -- `ABORT`, released
      exact h.movedOut (by decide) (h.cyc_eq_zero (by simp [hs])) nofun
    · -- `REL`
      exact h.movedOut (by decide) (h.cyc_eq_zero (by simp [hs])) nofun

end

end Sys2Proof.Safety

namespace Sys2Proof.Proofs

open Sys2Proof.Machine Sys2Proof.Safety

/-- Settles O47: a step with nothing queued is one edge of the block, and an edge keeps the invariants. -/
theorem registerInvariantIsKept : Obligations.RegisterInvariantIsKept := by
  unfold Obligations.RegisterInvariantIsKept
  rintro s t ⟨hqueue, hregs⟩ hstep
  rw [step_of_queue_nil hqueue] at hstep
  cases hstep
  exact ⟨hqueue, regInv_stepRegs hregs s.ports⟩

/-- Settles O48: the reset registers meet R32, and the queue of the reset state is empty. -/
theorem registerInvariantAtReset : Obligations.RegisterInvariantAtReset :=
  ⟨rfl, regInv_reset _⟩

/-- Settles O51: the counter is below the 8 ticks of the longest phase, which is what `CYC_W` bits hold. -/
theorem phaseCounterFitsItsWidth : Obligations.PhaseCounterFitsItsWidth := by
  unfold Obligations.PhaseCounterFitsItsWidth
  rintro s ⟨-, hregs⟩
  have hlt := hregs.cyc_lt
  exact ⟨Nat.le_sub_one_of_lt hlt, hlt.trans_le (Nat.le_pow_clog Nat.one_lt_two _), hregs.cyc_idle⟩

/-- Settles O18: a step with nothing queued is one edge of the block, and the edge is the listing's. -/
theorem stepIsTheListing : Obligations.StepIsTheListing := by
  unfold Obligations.StepIsTheListing
  intro s hqueue
  rw [step_eq_nextCycle hqueue, stepRegs_eq_listing]

/-- Settles O41: a step is one edge, and the edge writes the error status by the case of R26 that the cycle is in. -/
theorem errorStatusIsSticky : Obligations.ErrorStatusIsSticky := by
  unfold Obligations.ErrorStatusIsSticky
  intro s hqueue
  refine ⟨s.clock, step_of_queue_nil hqueue, fun hr => ?reset, fun hr hf => ?fault, fun hr hstart => ?start,
    fun hr hf hstart => ?sticky⟩
  case reset => simp [stepRegs_reset hr, Regs.reset]
  case fault =>
    rw [State.clock_regs, stepRegs_of_faultRead hr hf]
    split <;> rfl
  case start =>
    have hf : ¬ FaultRead s := by simp [FaultRead, hstart]
    exact (stepRegs_errorStatus_of_not_faultRead hr hf).trans (if_pos hstart)
  case sticky => exact (stepRegs_errorStatus_of_not_faultRead hr hf).trans (if_neg hstart)

/-- Settles O42: a step is one edge, and the edge sets `done` at the end of bit 59 only. -/
theorem doneMarksACompletedFrame : Obligations.DoneMarksACompletedFrame := by
  unfold Obligations.DoneMarksACompletedFrame
  intro s hqueue
  refine ⟨s.clock, step_of_queue_nil hqueue, fun hr => ?reset, fun hr => ?running⟩
  case reset => simp [stepRegs_reset hr, Regs.reset]
  case running =>
    rw [State.clock_regs, stepRegs_done_iff _ _ hr]
    exact ⟨fun ⟨hs, hc, hb⟩ => ⟨hs, hc, hb, not_faultRead_of_last_low hs hc⟩, fun ⟨hs, hc, hb, _⟩ => ⟨hs, hc, hb⟩⟩

/-- Settles O45: `out` shows most registers as they are; the rest are decoded state by state and code by code. -/
theorem outputsFollowTheRegisters : Obligations.OutputsFollowTheRegisters := by
  unfold Obligations.OutputsFollowTheRegisters
  intro r
  refine ⟨rfl, ?lineOe, ?sinkOp, rfl, fun _ _ => rfl, rfl, rfl, rfl, rfl, ?errCode, rfl⟩
  case lineOe => cases h : r.st <;> simp [out, lineOeOf, h]
  case sinkOp => cases h : r.st <;> by_cases hc : r.cyc = 0 <;> simp [out, sinkOpOf, SinkOp.code, h, hc]
  case errCode => cases h : r.errCode <;> simp [out, ErrCode.code, h]

end Sys2Proof.Proofs

/-! ## The sink's calls (20): O49, O50

After each cycle the sink knows exactly the line that the cycle showed (`shownLine`, R29): whether the handle is held, and the
level. So the calls of a cycle are in order when the sink knew what the state asks before it, and the next state of the block
asks for no more than the line shown. -/

namespace Sys2Proof.Safety

open Sys2Proof.Machine

/-! ### One call more (R47, R131, R133) -/

theorem sinkView_cons {calls : List SinkCall} {v : SinkView} (h : sinkView calls = some v) (c : SinkCall) :
    sinkView (c :: calls) = v.after c := by
  simp [sinkView, h]

theorem SinkView.after_configure (level : Bool) :
    SinkView.after { held := false, level := level } { op := .configure, level := false } =
      some { held := true, level := false } := rfl

/-- A high level is in order only after a low one. -/
theorem SinkView.after_set_high :
    SinkView.after { held := true, level := false } { op := .set, level := true } =
      some { held := true, level := true } := rfl

/-- A low level is in order after any level, as the abort entry needs (R149). -/
theorem SinkView.after_set_low (level : Bool) :
    SinkView.after { held := true, level := level } { op := .set, level := false } =
      some { held := true, level := false } := by
  simp [SinkView.after]

theorem SinkView.after_release :
    SinkView.after { held := true, level := false } { op := .release, level := false } =
      some { held := false, level := false } := rfl

/-! ### The line shown in a cycle -/

/-- The view of a sink that knows the line shown in the cycle of `r`: held where it is driven, at its level (R29). -/
def shownLine (r : Regs) : SinkView := { held := lineOeOf r, level := lineOf r }

section
variable {r : Regs}

theorem shownLine_released (hs : r.st = .idle ∨ r.st = .rel) : shownLine r = { held := false, level := false } := by
  rcases hs with hs | hs <;> simp [shownLine, lineOeOf, lineOf, hs]

theorem shownLine_high (hs : r.st = .high) : shownLine r = { held := true, level := true } := by
  simp [shownLine, lineOeOf, lineOf, hs]

theorem shownLine_heldLow (hs : r.st = .config ∨ r.st = .low ∨ r.st = .abort) :
    shownLine r = { held := true, level := false } := by
  rcases hs with hs | hs | hs <;> simp [shownLine, lineOeOf, lineOf, hs]

theorem shownLine_held (hs : r.st = .high ∨ r.st = .low) : (shownLine r).held = true := by
  obtain hs | hs := hs
  · rw [shownLine_high hs]
  · rw [shownLine_heldLow (.inr (.inl hs))]

/-- The calls of a cycle are in order when the sink knew what the state asks, and tell it the line that the cycle shows. -/
theorem sinkView_callsAfter {calls : List SinkCall} {v : SinkView} (hv : sinkView calls = some v) (h : SinkAgrees r v) :
    sinkView (callsAfter r calls) = some (shownLine r) := by
  obtain ⟨held, level⟩ := v
  cases hs : r.st with
  | idle =>
    obtain ⟨rfl, rfl⟩ : held = false ∧ level = false := by simpa [SinkAgrees, hs] using h
    rw [shownLine_released (.inl hs)]
    simpa [callsAfter, hs] using hv
  | config =>
    obtain ⟨rfl, rfl⟩ : held = false ∧ level = false := by simpa [SinkAgrees, hs] using h
    rw [shownLine_heldLow (.inl hs), ← SinkView.after_configure, ← sinkView_cons hv]
    simp [callsAfter, hs]
  | high =>
    obtain ⟨rfl, hlevel⟩ : held = true ∧ (level = true ↔ r.cyc ≠ 0) := by simpa [SinkAgrees, hs] using h
    rw [shownLine_high hs]
    by_cases hc : r.cyc = 0
    · obtain rfl : level = false := by simpa [hc] using hlevel
      rw [← SinkView.after_set_high, ← sinkView_cons hv]
      simp [callsAfter, hs, hc]
    · obtain rfl : level = true := hlevel.mpr hc
      simpa [callsAfter, hs, hc] using hv
  | low =>
    obtain ⟨rfl, hlevel⟩ : held = true ∧ (level = true ↔ r.cyc = 0) := by simpa [SinkAgrees, hs] using h
    rw [shownLine_heldLow (.inr (.inl hs))]
    by_cases hc : r.cyc = 0
    · rw [← SinkView.after_set_low level, ← sinkView_cons hv]
      simp [callsAfter, hs, hc]
    · obtain rfl : level = false := by simpa [hc] using hlevel
      simpa [callsAfter, hs, hc] using hv
  | abort =>
    obtain rfl : held = true := by simpa [SinkAgrees, hs] using h
    rw [shownLine_heldLow (.inr (.inr hs)), ← SinkView.after_set_low level, ← sinkView_cons hv]
    simp [callsAfter, hs]
  | rel =>
    obtain ⟨rfl, rfl⟩ : held = true ∧ level = false := by simpa [SinkAgrees, hs] using h
    rw [shownLine_released (.inr hs), ← SinkView.after_release, ← sinkView_cons hv]
    simp [callsAfter, hs]

/-- Both rules of `IDLE` lead to a state that asks for a free handle (R121, R122). -/
theorem sinkAgrees_idleRule (hs : r.st = .idle) (i : Inputs) :
    SinkAgrees (idleRule r i) { held := false, level := false } := by
  unfold idleRule
  split <;> simp [SinkAgrees, hs]

/-- A frame begins on a line held low (R125). -/
theorem sinkAgrees_beginFrame (r : Regs) (i : Inputs) :
    SinkAgrees (r.beginFrame i) { held := true, level := false } := by
  simp [SinkAgrees]

/-- The line shown in a cycle is what the next state asks the sink to know, by what an edge can do (`stepRegs_cases`). -/
theorem sinkAgrees_stepRegs (p : Params) {i : Inputs} (hr : i.rst = false) :
    SinkAgrees (stepRegs p r i) (shownLine r) := by
  rcases stepRegs_cases p r i hr with ⟨hs, he⟩ | ⟨hs, -, he⟩ | ⟨hs, -, -, he⟩ | ⟨hs, -, -, he⟩ | ⟨hs, -, -, he⟩ |
    ⟨hs, -, -, he⟩ | ⟨hs, -, -, he⟩ | ⟨hs, -, -, he⟩ | ⟨hs, -, -, -, he⟩ | ⟨hs, -, -, -, -, he⟩ |
    ⟨hs, -, -, -, -, he⟩ | ⟨hs, -, -, he⟩ | ⟨hs, -, he⟩ | ⟨hs, he⟩ <;> rw [he]
  · -- `IDLE`
    rw [shownLine_released (.inl hs)]
    exact sinkAgrees_idleRule hs i
  · -- the configure error
    rw [shownLine_heldLow (.inl hs)]
    exact ⟨rfl, rfl⟩
  · -- `CONFIG`, cancelled
    rw [shownLine_heldLow (.inl hs)]
    exact ⟨rfl, rfl⟩
  · -- the first frame
    rw [shownLine_heldLow (.inl hs)]
    exact sinkAgrees_beginFrame _ i
  · -- the abort entry
    exact shownLine_held hs
  · -- the end of a high phase: the first low cycle still finds the line high
    rw [shownLine_high hs]
    simp [SinkAgrees]
  · -- counting in a high phase
    rw [shownLine_high hs]
    simp [SinkAgrees, hs]
  · -- counting in a low phase
    rw [shownLine_heldLow (.inr (.inl hs))]
    simp [SinkAgrees, hs]
  · -- the bit boundary, cancelled
    rw [shownLine_heldLow (.inr (.inl hs))]
    exact ⟨rfl, rfl⟩
  · -- the next frame after bit 59
    rw [shownLine_heldLow (.inr (.inl hs))]
    exact sinkAgrees_beginFrame _ i
  · -- the next bit
    rw [shownLine_heldLow (.inr (.inl hs))]
    simp [SinkAgrees]
  · -- `ABORT`, retried
    rw [shownLine_heldLow (.inr (.inr hs))]
    exact sinkAgrees_beginFrame _ i
  · -- `ABORT`, released
    rw [shownLine_heldLow (.inr (.inr hs))]
    exact ⟨rfl, rfl⟩
  · -- `REL`
    rw [shownLine_released (.inr hs)]
    exact ⟨rfl, rfl⟩

end

/-! ### A cycle of the block by itself -/

/-- The ports take the next record or keep their levels (R71), so no reset comes up. -/
theorem NoReset.clock {s : State} (h : NoReset s) : NoReset s.clock := by
  obtain ⟨hports, hpending⟩ := h
  cases hp : s.pending with
  | nil => simp [NoReset, hp, hports]
  | cons i later => simpa [NoReset, hp] using hpending

theorem SinkInOrder.clock {s : State} (h : SinkInOrder s) (hr : s.ports.rst = false) : SinkInOrder s.clock := by
  obtain ⟨v, hv, hagrees⟩ := h
  refine ⟨shownLine s.regs, ?_, sinkAgrees_stepRegs s.params hr⟩
  rw [State.clock_calls, logCall_eq_callsAfter]
  exact sinkView_callsAfter hv hagrees

end Sys2Proof.Safety

namespace Sys2Proof.Proofs

open Sys2Proof.Machine Sys2Proof.Safety

/-- Settles O49: a step with nothing queued is one cycle of the block, and a cycle without reset keeps the calls in order. -/
theorem sinkCallsStayInOrder : Obligations.SinkCallsStayInOrder := by
  unfold Obligations.SinkCallsStayInOrder
  rintro s t ⟨hqueue, -⟩ hnoReset horder hstep
  rw [step_of_queue_nil hqueue] at hstep
  cases hstep
  exact ⟨hnoReset.clock, horder.clock hnoReset.1⟩

/-- Settles O50: at reset the ports are at 0, nothing is scheduled, and the sink has seen no call, which is what `IDLE` asks. -/
theorem sinkCallsInOrderAtReset : Obligations.SinkCallsInOrderAtReset :=
  ⟨⟨rfl, nofun⟩, _, rfl, rfl, rfl⟩

end Sys2Proof.Proofs

/-! ## The encodings (30): O56, O57, O58, O59

Each format has two lemmas: the word of its operands decodes to them, and a number that decodes is the word of operands. That
decode and encode are inverse to each other is these lemmas put together, one constructor or one place at a time. -/

namespace Sys2Proof

open Laws.EncodedFits (field8Bits_lt field17Bits_lt sampleBits_lt)

/-! ### Digits and fields (R54, R55) -/

theorem digitOf_eq_some_iff {n : Nat} {d : Digit} : digitOf n = some d ↔ n = d.val := by
  unfold digitOf
  split
  case isTrue h => simp [Fin.ext_iff]
  case isFalse h => simp only [reduceCtorEq, false_iff]; omega

theorem digitOf_eq_none_iff {n : Nat} : digitOf n = none ↔ 10 ≤ n := by
  simp [digitOf]

section
variable {mk : Digit → Digit → Instr} {n : Nat} {i : Instr}

theorem decodeField8_field8Bits (mk : Digit → Digit → Instr) (t u : Digit) :
    decodeField8 mk (field8Bits t u) = .ok (mk t u) := by
  have ht : digitOf (field8Bits t u / 16) = some t := digitOf_eq_some_iff.mpr (by unfold field8Bits; omega)
  have hu : digitOf (field8Bits t u % 16) = some u := digitOf_eq_some_iff.mpr (by unfold field8Bits; omega)
  rw [decodeField8, if_pos (field8Bits_lt t u), ht, hu]

theorem exists_field8Bits_of_decodeField8 (h : decodeField8 mk n = .ok i) :
    ∃ t u, field8Bits t u = n ∧ mk t u = i := by
  unfold decodeField8 at h
  split at h
  case isTrue hn =>
    split at h
    case h_1 t u ht hu =>
      rw [digitOf_eq_some_iff] at ht hu
      exact ⟨t, u, by unfold field8Bits; omega, by simpa using h⟩
    case h_2 => cases h
  case isFalse => cases h

theorem decodeField8_eq_notADigit (mk : Digit → Digit → Instr) (hn : n < 2 ^ 8) (h : 10 ≤ n / 16 ∨ 10 ≤ n % 16) :
    decodeField8 mk n = .error .notADigit := by
  simp only [← digitOf_eq_none_iff] at h
  rw [decodeField8, if_pos hn]
  split
  case h_1 ht hu => simp only [ht, hu, reduceCtorEq, or_self] at h
  case h_2 => rfl

theorem testBit_sixteen_field17Bits (p : Bool) (k h t u : Digit) : (field17Bits p k h t u).testBit 16 = p := by
  have hp : p.toNat ≤ 1 := Bool.toNat_le p
  have hdiv : field17Bits p k h t u / 2 ^ 16 % 2 = p.toNat := by unfold field17Bits; omega
  rw [Nat.testBit_eq_decide_div_mod_eq, hdiv]
  cases p <;> rfl

theorem decodeField17_field17Bits (p : Bool) (k h t u : Digit) :
    decodeField17 (field17Bits p k h t u) = .ok (.fieldDoy p k h t u) := by
  have hp : p.toNat ≤ 1 := Bool.toNat_le p
  have hk : digitOf (field17Bits p k h t u / 2 ^ 12 % 16) = some k :=
    digitOf_eq_some_iff.mpr (by unfold field17Bits; omega)
  have hh : digitOf (field17Bits p k h t u / 2 ^ 8 % 16) = some h :=
    digitOf_eq_some_iff.mpr (by unfold field17Bits; omega)
  have ht : digitOf (field17Bits p k h t u / 2 ^ 4 % 16) = some t :=
    digitOf_eq_some_iff.mpr (by unfold field17Bits; omega)
  have hu : digitOf (field17Bits p k h t u % 16) = some u := digitOf_eq_some_iff.mpr (by unfold field17Bits; omega)
  rw [decodeField17, if_pos (field17Bits_lt p k h t u), hk, hh, ht, hu, testBit_sixteen_field17Bits]

theorem exists_field17Bits_of_decodeField17 (h : decodeField17 n = .ok i) :
    ∃ p k h t u, field17Bits p k h t u = n ∧ .fieldDoy p k h t u = i := by
  unfold decodeField17 at h
  split at h
  case isTrue hn =>
    split at h
    case h_1 k h' t u hk hh ht hu =>
      rw [digitOf_eq_some_iff] at hk hh ht hu
      have hp : (n.testBit 16).toNat = n / 2 ^ 16 := by
        rw [Nat.toNat_testBit]; omega
      exact ⟨n.testBit 16, k, h', t, u, by unfold field17Bits; omega, by simpa using h⟩
    case h_2 => cases h
  case isFalse => cases h

theorem decodeField17_eq_notADigit (hn : n < 2 ^ 17)
    (h : 10 ≤ n / 2 ^ 12 % 16 ∨ 10 ≤ n / 2 ^ 8 % 16 ∨ 10 ≤ n / 2 ^ 4 % 16 ∨ 10 ≤ n % 16) :
    decodeField17 n = .error .notADigit := by
  simp only [← digitOf_eq_none_iff] at h
  rw [decodeField17, if_pos hn]
  split
  case h_1 hk hh ht hu => simp only [hk, hh, ht, hu, reduceCtorEq, or_self] at h
  case h_2 => rfl

/-! ### The sample record (R63) -/

theorem decodeSample_sampleBits (s : Sample) : decodeSample (sampleBits s) = .ok (.build s) := by
  have hsec := s.sec.isLt
  have hmin := s.min.isLt
  have hhour := s.hour.isLt
  have hdoy := s.doy.isLt
  rw [decodeSample, if_pos (sampleBits_lt s)]
  congr
  all_goals
    apply BitVec.eq_of_toNat_eq
    rw [BitVec.toNat_ofNat, sampleBits]
    omega

theorem exists_sampleBits_of_decodeSample (h : decodeSample n = .ok i) : ∃ s, sampleBits s = n ∧ .build s = i := by
  unfold decodeSample at h
  split at h
  case isTrue hn =>
    refine ⟨_, ?_, by simpa using h⟩
    simp only [sampleBits, BitVec.toNat_ofNat]
    omega
  case isFalse => cases h

end

/-! ### The frame (R56) -/

/-- The value at index `k` of a frame with these contents of its fields (R56): ones at 0 and 50, the fields from 1, 10, 20 and
30, zeros elsewhere. -/
def layoutBit (sec min hour : BitVec 8) (doy : BitVec 17) (k : Nat) : Bool :=
  if k = 0 ∨ k = 50 then true
  else if 1 ≤ k ∧ k ≤ 8 then sec.getLsbD (k - 1)
  else if 10 ≤ k ∧ k ≤ 17 then min.getLsbD (k - 10)
  else if 20 ≤ k ∧ k ≤ 27 then hour.getLsbD (k - 20)
  else if 30 ≤ k ∧ k ≤ 46 then doy.getLsbD (k - 30)
  else false

theorem frameConstBits_getLsbD {k : Nat} (hk : k < 60) : frameConstBits.getLsbD k = decide (k = 0 ∨ k = 50) := by
  revert k; decide

/-- An index is constant in the layout when no field stands there (R56, R97). -/
theorem frameConstMask_getLsbD {k : Nat} (hk : k < 60) :
    frameConstMask.getLsbD k =
      !decide ((1 ≤ k ∧ k ≤ 8) ∨ (10 ≤ k ∧ k ≤ 17) ∨ (20 ≤ k ∧ k ≤ 27) ∨ (30 ≤ k ∧ k ≤ 46)) := by
  revert k; decide

/-- A field shifted to index `a` of a frame, bit by bit. -/
theorem shiftLeft_setWidth_getLsbD {w : Nat} (v : BitVec w) (a : Nat) {k : Nat} (hk : k < 60) :
    ((v.setWidth 60 : Frame) <<< a).getLsbD k = (decide (a ≤ k ∧ k < a + w) && v.getLsbD (k - a)) := by
  have hk' : k - a < 60 := by omega
  have hv : w ≤ k - a → v.getLsbD (k - a) = false := BitVec.getLsbD_of_ge v _
  simp only [BitVec.getLsbD_shiftLeft, BitVec.getLsbD_setWidth, hk, hk']
  grind

section
variable (sec min hour : BitVec 8) (doy : BitVec 17)

theorem frameBits_getLsbD {k : Nat} (hk : k < 60) :
    (frameBits sec min hour doy).getLsbD k = layoutBit sec min hour doy k := by
  simp only [frameBits, BitVec.getLsbD_or, shiftLeft_setWidth_getLsbD _ _ hk, frameConstBits_getLsbD hk]
  grind [layoutBit]

/-- A field is read back from the frame when the layout has its bits in this order from `a` on. -/
theorem extractLsb'_frameBits {w a : Nat} {v : BitVec w} (ha : a + w ≤ 60)
    (hv : ∀ j, j < w → layoutBit sec min hour doy (a + j) = v.getLsbD j) :
    (frameBits sec min hour doy).extractLsb' a w = v := by
  apply BitVec.eq_of_getLsbD_eq
  intro j hj
  rw [BitVec.getLsbD_extractLsb', frameBits_getLsbD _ _ _ _ (by omega), hv j hj, decide_eq_true hj, Bool.true_and]

theorem frameBits_and_frameConstMask : frameBits sec min hour doy &&& frameConstMask = frameConstBits := by
  apply BitVec.eq_of_getLsbD_eq
  intro k hk
  rw [BitVec.getLsbD_and, frameBits_getLsbD _ _ _ _ hk, frameConstMask_getLsbD hk, frameConstBits_getLsbD hk]
  grind [layoutBit]

theorem decodeFrame_frameBits :
    decodeFrame (frameBits sec min hour doy).toNat = .ok (.frame sec min hour doy) := by
  have hsec := extractLsb'_frameBits sec min hour doy (a := 1) (v := sec) (by decide) (by grind [layoutBit])
  have hmin := extractLsb'_frameBits sec min hour doy (a := 10) (v := min) (by decide) (by grind [layoutBit])
  have hhour := extractLsb'_frameBits sec min hour doy (a := 20) (v := hour) (by decide) (by grind [layoutBit])
  have hdoy := extractLsb'_frameBits sec min hour doy (a := 30) (v := doy) (by decide) (by grind [layoutBit])
  simp only [decodeFrame, if_pos (frameBits sec min hour doy).isLt, BitVec.ofNat_toNat, BitVec.setWidth_eq,
    frameBits_and_frameConstMask, if_true, hsec, hmin, hhour, hdoy]

end

theorem frameBits_extractLsb' {f : Frame} (h : f &&& frameConstMask = frameConstBits) :
    frameBits (f.extractLsb' 1 8) (f.extractLsb' 10 8) (f.extractLsb' 20 8) (f.extractLsb' 30 17) = f := by
  apply BitVec.eq_of_getLsbD_eq
  intro k hk
  have hconst := congrArg (·.getLsbD k) h
  simp only [BitVec.getLsbD_and, frameConstMask_getLsbD hk, frameConstBits_getLsbD hk] at hconst
  simp only [frameBits_getLsbD _ _ _ _ hk, layoutBit, BitVec.getLsbD_extractLsb']
  grind

theorem exists_frameBits_of_decodeFrame {n : Nat} {i : Instr} (h : decodeFrame n = .ok i) :
    ∃ sec min hour doy, (frameBits sec min hour doy).toNat = n ∧ .frame sec min hour doy = i := by
  unfold decodeFrame at h
  split at h
  case isTrue hn =>
    simp only at h
    split at h
    case isTrue hconst =>
      refine ⟨_, _, _, _, ?_, by simpa using h⟩
      rw [frameBits_extractLsb' hconst, BitVec.toNat_ofNat, Nat.mod_eq_of_lt hn]
    case isFalse => cases h
  case isFalse => cases h

/-! ### The formats whose every word is listed (R54, R58 to R62) -/

section
variable {n : Nat} {i : Instr}

theorem encode_of_decodeDigit (h : decodeDigit n = .ok i) : encode i = word .digit n ∧ i.wf = true := by
  unfold decodeDigit at h
  split at h <;> cases h <;> exact ⟨rfl, rfl⟩

theorem encode_of_decodeSymsel (h : decodeSymsel n = .ok i) : encode i = word .symsel n ∧ i.wf = true := by
  unfold decodeSymsel at h
  split at h <;> cases h <;> exact ⟨rfl, rfl⟩

theorem encode_of_decodeCmd (h : decodeCmd n = .ok i) : encode i = word .cmd n ∧ i.wf = true := by
  unfold decodeCmd at h
  split at h <;> cases h <;> exact ⟨rfl, rfl⟩

theorem encode_of_decodeSinkop (h : decodeSinkop n = .ok i) : encode i = word .sinkop n ∧ i.wf = true := by
  unfold decodeSinkop at h
  split at h <;> cases h <;> exact ⟨rfl, rfl⟩

theorem encode_of_decodeSt (h : decodeSt n = .ok i) : encode i = word .st n ∧ i.wf = true := by
  unfold decodeSt at h
  split at h <;> cases h <;> exact ⟨rfl, rfl⟩

theorem encode_of_decodeErr (h : decodeErr n = .ok i) : encode i = word .err n ∧ i.wf = true := by
  unfold decodeErr at h
  split at h <;> cases h <;> exact ⟨rfl, rfl⟩

end

/-! ### Decode and encode -/

/-- Every well-formed instruction is read back from its word. -/
theorem decode_encode {i : Instr} (hwf : i.wf = true) : decode (encode i) = .ok i := by
  cases i with
  | encode value width => exact if_neg (Nat.ne_of_gt (of_decide_eq_true hwf))
  | build s => exact decodeSample_sampleBits s
  | render f => simp [decode, encode, word, f.isLt]
  | sym f i => simp [decode, encode, f.isLt]
  | frame sec min hour doy => exact decodeFrame_frameBits sec min hour doy
  | fieldSec t u => exact decodeField8_field8Bits .fieldSec t u
  | fieldMin t u => exact decodeField8_field8Bits .fieldMin t u
  | fieldHour t u => exact decodeField8_field8Bits .fieldHour t u
  | fieldDoy p k h t u => exact decodeField17_field17Bits p k h t u
  | symMark b | cmdStop b => cases b <;> rfl
  | digit0 | digit1 | digit2 | digit3 | digit4 | digit5 | digit6 | digit7 | digit8 | digit9
  | symOne | symZero | cmdNop | cmdStart | sinkNone | sinkConfigure | sinkSet | sinkRelease
  | stIdle | stConfig | stHigh | stLow | stAbort | stRel
  | errNone | errEncoding | errIoConfig | errTransmit | errInvariant => rfl

/-- Every word that decodes is the word of a well-formed instruction. -/
theorem encode_of_decode {w : OpWord} {i : Instr} (h : decode w = .ok i) : encode i = w ∧ i.wf = true := by
  obtain ⟨place, args⟩ := w
  unfold decode at h
  split at h
  case h_1 _ _ value width hp ha =>
    cases hp; cases ha
    split at h
    · cases h
    · cases h; exact ⟨rfl, decide_eq_true (by omega)⟩
  case h_2 _ _ n hp ha =>
    cases hp; cases ha
    obtain ⟨s, rfl, rfl⟩ := exists_sampleBits_of_decodeSample h
    exact ⟨rfl, rfl⟩
  case h_3 _ _ n hp ha =>
    cases hp; cases ha
    split at h
    · cases h
      exact ⟨by simp [encode, word]; omega, rfl⟩
    · cases h
  case h_4 _ _ n k hp ha =>
    cases hp; cases ha
    split at h
    · split at h
      · cases h
        exact ⟨by simp [encode]; omega, rfl⟩
      · cases h
    · cases h
  case h_5 _ _ n hp ha =>
    cases hp; cases ha
    obtain ⟨sec, min, hour, doy, rfl, rfl⟩ := exists_frameBits_of_decodeFrame h
    exact ⟨rfl, rfl⟩
  case h_6 | h_7 | h_8 =>
    rename_i n hp ha
    cases hp; cases ha
    obtain ⟨t, u, rfl, rfl⟩ := exists_field8Bits_of_decodeField8 h
    exact ⟨rfl, rfl⟩
  case h_9 _ _ n hp ha =>
    cases hp; cases ha
    obtain ⟨p, k, h, t, u, rfl, rfl⟩ := exists_field17Bits_of_decodeField17 h
    exact ⟨rfl, rfl⟩
  case h_10 _ _ n hp ha => cases hp; cases ha; exact encode_of_decodeDigit h
  case h_11 _ _ n hp ha => cases hp; cases ha; exact encode_of_decodeSymsel h
  case h_12 _ _ n hp ha => cases hp; cases ha; exact encode_of_decodeCmd h
  case h_13 _ _ n hp ha => cases hp; cases ha; exact encode_of_decodeSinkop h
  case h_14 _ _ n hp ha => cases hp; cases ha; exact encode_of_decodeSt h
  case h_15 _ _ n hp ha => cases hp; cases ha; exact encode_of_decodeErr h
  case h_16 => cases h

end Sys2Proof

namespace Sys2Proof.Proofs

/-- Settles O56, by the word of each constructor (`decode_encode`). -/
theorem decodeOfEncodeIsTheInstruction : Obligations.DecodeOfEncodeIsTheInstruction :=
  fun _ hwf => decode_encode hwf

/-- Settles O57, by the words of each place (`encode_of_decode`). -/
theorem encodeOfDecodeIsTheWord : Obligations.EncodeOfDecodeIsTheWord :=
  fun _ _ h => encode_of_decode h

/-- Settles O58, by running the decoder on each word. -/
theorem specWordsDecodeAsTheSpecSays : Obligations.SpecWordsDecodeAsTheSpecSays := by
  unfold Obligations.SpecWordsDecodeAsTheSpecSays
  decide

/-- Settles O59: nibbles that are no digit by `decodeField8_eq_notADigit` and `decodeField17_eq_notADigit`, the short formats
code by code. -/
theorem unusedCodesAreRefused : Obligations.UnusedCodesAreRefused := by
  unfold Obligations.UnusedCodesAreRefused
  refine ⟨?digit, ?field8, ?field17, ?st, ?err, ?used⟩
  case digit => intro n hlo hhi; interval_cases n <;> rfl
  case field8 =>
    intro n hn h
    exact ⟨decodeField8_eq_notADigit _ hn h, decodeField8_eq_notADigit _ hn h, decodeField8_eq_notADigit _ hn h⟩
  case field17 => exact fun n hn h => decodeField17_eq_notADigit hn h
  case st => intro n hlo hhi; interval_cases n <;> rfl
  case err => intro n hlo hhi; interval_cases n <;> rfl
  case used => intro n hn; interval_cases n <;> exact ⟨⟨_, rfl⟩, ⟨_, rfl⟩, _, rfl⟩

end Sys2Proof.Proofs

/-! ## Operations that deliver a result (30): O10, O11, O5 -/

namespace Sys2Proof.Machine

/-- A field written in two parts is written in one piece. -/
theorem writeField_append (f : Frame) (a : Nat) (xs ys : List Bool) :
    writeField f a (xs ++ ys) = writeField (writeField f a xs) (a + xs.length) ys := by
  induction xs generalizing f a with
  | nil => rfl
  | cons x xs ih =>
    simp only [List.cons_append, writeField, ih, List.length_cons, Nat.add_right_comm, Nat.add_assoc]

/-- The split of the day-of-year field at index 40 is no gap: its elements go on from 30 (R92). -/
theorem putDoy_eq (f : Frame) {bs : List Bool} (hbs : 10 ≤ bs.length) :
    putDoy f bs = writeField (writeField f 30 bs) 47 [false, false] := by
  have htake : 40 = 30 + (bs.take 10).length := by simp; omega
  rw [putDoy, htake, ← writeField_append, List.take_append_drop]

theorem putDoy_getLsbD (f : Frame) {bs : List Bool} (hbs : bs.length = 17) {k : Nat} (hk : k < 60) :
    (putDoy f bs).getLsbD k =
      if 30 ≤ k ∧ k ≤ 46 then bs.getD (k - 30) false else if k = 47 ∨ k = 48 then false else f.getLsbD k := by
  rw [putDoy_eq f (by omega), writeField_getLsbD _ _ _ _ hk, writeField_getLsbD _ _ _ _ hk, hbs]
  by_cases hpad : k = 47 ∨ k = 48
  · rcases hpad with rfl | rfl <;> rfl
  · grind

section
variable (sec min hour : BitVec 8) (doy : BitVec 17)

theorem layoutFrame_getLsbD {k : Nat} (hk : k < 60) :
    (layoutFrame sec min hour doy).getLsbD k = layoutBit sec min hour doy k := by
  have hmark : k % 10 = 0 ↔ k = 0 ∨ k = 10 ∨ k = 20 ∨ k = 30 ∨ k = 40 ∨ k = 50 := by omega
  simp only [layoutFrame, putDoy_getLsbD _ (fieldElems_length doy) hk, putHours, putMinutes, putSeconds,
    writeField_getLsbD _ _ _ _ hk, fieldElems_length, fieldElems_getD, markedFrame_getLsbD k hk, hmark]
  unfold layoutBit
  by_cases hdoy : 30 ≤ k ∧ k ≤ 46
  · grind
  · simp only [if_neg hdoy]
    grind

/-- `FRAME` delivers the frame whose number is its word (R40). -/
theorem layoutFrame_eq_frameBits : layoutFrame sec min hour doy = frameBits sec min hour doy :=
  BitVec.eq_of_getLsbD_eq fun _ hk => by rw [layoutFrame_getLsbD _ _ _ _ hk, frameBits_getLsbD _ _ _ _ hk]

end

end Sys2Proof.Machine

namespace Sys2Proof.Proofs

open Machine

/-- Settles O5: each operation delivers `nibble` of its digit. -/
theorem digitsDeliverTheirNibbles : Obligations.DigitsDeliverTheirNibbles :=
  fun _ => ⟨rfl, rfl, rfl, rfl, rfl, rfl, rfl, rfl, rfl, rfl⟩

/-- Settles O10: the frame delivered has the bits of `layoutBit`, and so has the encoder's word. -/
theorem frameLayoutBitByBit : Obligations.FrameLayoutBitByBit := by
  unfold Obligations.FrameLayoutBitByBit
  intro sec min hour doy s
  refine ⟨layoutFrame sec min hour doy, rfl, ?_, fun k hk => layoutFrame_getLsbD sec min hour doy hk⟩
  rw [layoutFrame_eq_frameBits]
  rfl

/-- Settles O11: character `k` of `render` is `renderChar` of index `k`. -/
theorem renderCharacterByCharacter : Obligations.RenderCharacterByCharacter := by
  unfold Obligations.RenderCharacterByCharacter
  refine ⟨fun f s => ⟨render f, rfl, render_length f, fun k hk => ?_⟩, by decide⟩
  simp [render, renderChar, Config.frameLen, Config.markPeriod, hk]

end Sys2Proof.Proofs

/-! ## Operations as cycles (30): O19, O20, O21, O54, O55 -/

namespace Sys2Proof.Machine

open Sys2Proof.Safety

/-! ### A step by what it fetches -/

theorem step_of_commandWord {s : State} {i : Instr} (hq : s.queue = []) (h : decode (commandWord s.ports) = .ok i) :
    step s = exec i s := by
  simp [step, fetch, hq, h]

theorem step_of_undecodable {s : State} {w : OpWord} {ws : List OpWord} {e : DecodeError} (hq : s.queue = w :: ws)
    (h : decode w = .error e) : step s = .refused (.undecodable e) := by
  simp [step, fetch, hq, h]

theorem decodeTableWord_eq_some_iff {nbits w : Nat} {i : Instr} :
    decodeTableWord nbits w = some i ↔ decode (tableWord nbits w) = .ok i := by
  unfold decodeTableWord
  cases decode (tableWord nbits w) <;> simp [Except.toOption]

theorem step_withFetchWord {s : State} {nbits w : Nat} {i : Instr} (h : decodeTableWord nbits w = some i) :
    step (s.withFetchWord nbits w) = exec i s :=
  step_of_queue_cons (s.withFetchWord_queue nbits w) (decodeTableWord_eq_some_iff.mp h)

/-! ### The cycles as the listing's (44 section 4) -/

theorem cycleFrom_eq_nextCycle (s : State) (r : Regs) (i : Inputs) :
    s.cycleFrom r i = nextCycle s (listing s.params r i) (callsAfter r s.calls) := by
  rw [← stepRegs_eq_listing, ← logCall_eq_callsAfter]
  rfl

/-- `sink_fault_i` reaches the registers through the error raised and in no other way (R143). -/
theorem edge_sinkFault (p : Params) (r : Regs) (i : Inputs) (b : Bool) (y : Symbol) (c : ErrCode) :
    edge p r { i with sinkFault := b } y c = edge p r i y c := rfl

@[simp] theorem causeOf_no_fault (r : Regs) (op : SinkOp) : causeOf r op false = .none := by
  unfold causeOf
  split <;> simp

/-- An operation that the block does not show has no answer that is read (R143; log 15). -/
theorem causeOf_of_ne_sinkOpOf {r : Regs} {op : SinkOp} (h : op ≠ sinkOpOf r) (fault : Bool) :
    causeOf r op fault = .none := by
  unfold causeOf
  split
  case h_1 hs => exact absurd (by simp [sinkOpOf, hs]) h
  case h_2 hs | h_3 hs =>
    have hc : r.cyc ≠ 0 := fun hc => h (by simp [sinkOpOf, hs, hc])
    simp [hc]
  case h_4 => rfl

/-- So the answer to any operation is as good as an answer to the operation shown, and no failure where they differ. -/
theorem causeOf_eq_causeOf_sinkOpOf (r : Regs) (op : SinkOp) (fault : Bool) :
    causeOf r op fault = causeOf r (sinkOpOf r) (fault && decide (op = sinkOpOf r)) := by
  by_cases hop : op = sinkOpOf r
  · simp [hop]
  · simp [hop, causeOf_of_ne_sinkOpOf hop]

theorem logCall_eq (r : Regs) (op : SinkOp) (calls : List SinkCall) :
    logCall op (lineOf r) calls =
      if op = .none then calls else { op := op, level := decide (r.st = .high) } :: calls := by
  cases op <;> rfl

theorem cycleSink_eq_nextCycle (s : State) (op : SinkOp) :
    s.cycleSink op = nextCycle s
      (listing s.params s.regs { s.ports with sinkFault := s.ports.sinkFault && decide (op = sinkOpOf s.regs) })
      (if op = .none then s.calls else { op := op, level := decide (s.regs.st = .high) } :: s.calls) := by
  rw [← stepRegs_eq_listing, stepRegs, causeNow, edge_sinkFault, ← causeOf_eq_causeOf_sinkOpOf, ← logCall_eq]
  rfl

/-! ### The words in the places of a cycle (R58 to R62) -/

/-- A word decodes to an operation that completes in every state and leaves what `next` says. -/
def RunsAs (w : OpWord) (next : State → State) : Prop := ∃ i, decode w = .ok i ∧ ∀ s, exec i s = .next (next s)

theorem cmdWord_runsAs (start stop : Bool) :
    RunsAs (word .cmd (start.toNat * 2 + stop.toNat)) (·.cycleCmd start stop) := by
  cases start <;> cases stop <;> exact ⟨_, rfl, fun _ => rfl⟩

theorem stWord_runsAs (st : St) : RunsAs (word .st st.code.toNat) (·.cycleIn st) := by
  cases st <;> exact ⟨_, rfl, fun _ => rfl⟩

/-- The pair (`is_marker`, `b`) (R58). -/
theorem symselWord_runsAs (marker stored : Bool) :
    RunsAs (word .symsel ((if marker = true then 2 else 0) + stored.toNat))
      (·.cycleSym (if marker = true then .mark else if stored = true then .one else .zero)) := by
  cases marker <;> cases stored <;> exact ⟨_, rfl, fun _ => rfl⟩

/-- The pair of an index of a frame selects the symbol of that index (R101). -/
theorem symselWord_runsAs_sym (f : Frame) (k : Nat) :
    RunsAs (word .symsel ((if k % 10 = 0 then 2 else 0) + (f.getLsbD k).toNat)) (·.cycleSym (sym f k)) := by
  by_cases hk : k % 10 = 0
  · simpa [sym, Config.markPeriod, hk] using symselWord_runsAs true (f.getLsbD k)
  · simpa [sym, Config.markPeriod, hk] using symselWord_runsAs false (f.getLsbD k)

theorem sinkopWord_runsAs (op : SinkOp) : RunsAs (word .sinkop op.code.toNat) (·.cycleSink op) := by
  cases op <;> exact ⟨_, rfl, fun _ => rfl⟩

/-- The code of an error that is raised runs; the reserved codes are refused (R141, R142). -/
theorem errWord_runsAs {c : ErrCode} (h : c = .none ∨ c = .ioConfig ∨ c = .transmit) :
    RunsAs (word .err c.code.toNat) (·.cycleRaising c) := by
  rcases h with rfl | rfl | rfl <;> exact ⟨_, rfl, fun _ => rfl⟩

/-- A cycle raises no reserved code (R141, R142, R143). -/
theorem causeNow_not_reserved (r : Regs) (i : Inputs) :
    causeNow r i = .none ∨ causeNow r i = .ioConfig ∨ causeNow r i = .transmit := by
  rw [causeNow_eq]
  split_ifs <;> simp

end Sys2Proof.Machine

namespace Sys2Proof.Proofs

open Sys2Proof.Machine Sys2Proof.Safety

/-- Settles O19: each operation is the cycle with its levels on the inputs, and that cycle is the listing's. -/
theorem commandsAreTheInputLevels : Obligations.CommandsAreTheInputLevels := by
  unfold Obligations.CommandsAreTheInputLevels
  intro i start stop s h
  rw [← cycleFrom_eq_nextCycle]
  rcases h with ⟨rfl, rfl, rfl⟩ | ⟨rfl, rfl, rfl⟩ | ⟨rfl, rfl⟩ <;> rfl

/-- Settles O20: each operation is the cycle with its code in `st`, and that cycle is the listing's. -/
theorem statesAreTheListingsBranches : Obligations.StatesAreTheListingsBranches := by
  unfold Obligations.StatesAreTheListingsBranches
  intro i st s h
  rw [← cycleFrom_eq_nextCycle]
  rcases h with ⟨rfl, rfl⟩ | ⟨rfl, rfl⟩ | ⟨rfl, rfl⟩ | ⟨rfl, rfl⟩ | ⟨rfl, rfl⟩ | ⟨rfl, rfl⟩ <;> rfl

/-- Settles O21: each operation is the cycle that shows it, and that cycle is the listing's with the answer of R143. -/
theorem sinkOperationsAreAskedAndAnswered : Obligations.SinkOperationsAreAskedAndAnswered := by
  unfold Obligations.SinkOperationsAreAskedAndAnswered
  intro i op s h
  rw [← cycleSink_eq_nextCycle]
  rcases h with ⟨rfl, rfl⟩ | ⟨rfl, rfl⟩ | ⟨rfl, rfl⟩ | ⟨rfl, rfl⟩ <;> rfl

/-- Settles O54: each of the five words runs as the cycle with that word in place, which is the block's own cycle. -/
theorem cycleRunsEveryWordInItsPlace : Obligations.CycleRunsEveryWordInItsPlace := by
  unfold Obligations.CycleRunsEveryWordInItsPlace
  intro s hqueue w hw
  have hruns : ∃ next, RunsAs w next ∧ next s = s.clock := by
    simp only [List.mem_cons, List.not_mem_nil, or_false] at hw
    rcases hw with rfl | rfl | rfl | rfl | rfl
    · exact ⟨_, cmdWord_runsAs s.ports.start s.ports.stop, rfl⟩
    · exact ⟨_, stWord_runsAs s.regs.st, rfl⟩
    · exact ⟨_, symselWord_runsAs_sym s.regs.frame s.regs.bitIdx.toNat, rfl⟩
    · exact ⟨_, sinkopWord_runsAs (sinkOpOf s.regs), rfl⟩
    · exact ⟨_, errWord_runsAs (causeNow_not_reserved s.regs s.ports), rfl⟩
  obtain ⟨next, ⟨i, hdecode, hexec⟩, hclock⟩ := hruns
  exact ⟨i, hdecode, s.clock, hclock ▸ hexec s, step_of_queue_nil hqueue⟩

/-- Settles O55: a step by the word it fetches, clause by clause. -/
theorem stepRunsTheDecodedWord : Obligations.StepRunsTheDecodedWord :=
  ⟨fun _ _ => step_of_commandWord, fun _ _ _ _ => step_of_queue_cons, fun _ _ _ _ => step_of_undecodable,
    fun _ _ _ _ => step_withFetchWord⟩

end Sys2Proof.Proofs

/-! ## The BCD encoder (41): O1, O2, O3, O4 -/

namespace Sys2Proof.Machine

/-- A field one bit wider has one more bit in front; the others are counted from the right end and stay (R79). -/
theorem bcdEncode_succ (value width : Nat) :
    bcdEncode value (width + 1) = (digit value (width / 4)).testBit (width % 4) :: bcdEncode value width := by
  simp only [bcdEncode, List.range_succ_eq_map, List.map_cons, List.map_map, Nat.add_sub_cancel, Nat.sub_zero]
  congr 1
  refine List.map_congr_left fun j _ => ?_
  simp only [Function.comp_apply, Nat.succ_eq_add_one, Nat.sub_sub, Nat.add_comm 1 j]

/-- A field one digit wider has the nibble of that digit in front (R76, R79). -/
theorem bcdEncode_four_mul_succ (value n : Nat) :
    bcdEncode value (4 * (n + 1)) = nibble (digit value n) ++ bcdEncode value (4 * n) := by
  have hdiv : ∀ r, r < 4 → (4 * n + r) / 4 = n := by omega
  have hmod : ∀ r, r < 4 → (4 * n + r) % 4 = r := by omega
  rw [show 4 * (n + 1) = 4 * n + 3 + 1 from rfl]
  simp [bcdEncode_succ, nibble, hdiv, hmod]

/-- The trailing bits of a field are the narrower field of the same value (R78). -/
theorem drop_bcdEncode (value width k : Nat) : (bcdEncode value (width + k)).drop k = bcdEncode value width := by
  induction k with
  | zero => rfl
  | succ k ih => rw [← Nat.add_assoc, bcdEncode_succ, List.drop_succ_cons, ih]

/-- R82 (b): at a width `4 * n` the field is the nibbles of the `n` low-order digits, the highest first. -/
theorem flatMap_nibble_digits (value n : Nat) :
    ((List.range n).reverse.map (digit value)).flatMap nibble = bcdEncode value (4 * n) := by
  induction n with
  | zero => rfl
  | succ n ih => simp [List.range_succ, bcdEncode_four_mul_succ, ← ih]

theorem digit_lt (value q : Nat) : digit value q < 10 := Nat.mod_lt _ (by decide)

/-- A digit below digit `n` is a digit of the value modulo `10 ^ n`. -/
theorem digit_mod_pow (value : Nat) {q n : Nat} (hq : q < n) : digit (value % 10 ^ n) q = digit value q := by
  have hpow : 10 ^ n = 10 ^ q * 10 ^ (n - q) := by rw [← Nat.pow_add, Nat.add_sub_cancel' hq.le]
  have hdvd : 10 ∣ 10 ^ (n - q) := dvd_pow_self 10 (by omega)
  rw [digit, digit, hpow, Nat.mod_mul_right_div_self, Nat.mod_mod_of_dvd _ hdvd]

/-- R82 (a). -/
theorem bcdEncode_mod_pow (value width : Nat) :
    bcdEncode (value % 10 ^ digitCount width) width = bcdEncode value width := by
  refine List.map_congr_left fun j hj => ?_
  have hj : j < width := List.mem_range.mp hj
  have hq : (width - 1 - j) / 4 < digitCount width := by unfold digitCount; omega
  simp only [digit_mod_pow value hq]

/-- `ENCODE` at a positive width delivers the field of the closed form. -/
theorem exec_encode {width : Nat} (hwidth : 0 < width) (value : Nat) (s : State) :
    exec (.encode value width) s = .next (s.deliverBits (bcdEncode value width)) :=
  if_neg hwidth.ne'

theorem bcdOverflow_eq_false_iff {value width : Nat} : bcdOverflow value width = false ↔ value < 10 ^ digitCount width := by
  simp [bcdOverflow]

end Sys2Proof.Machine

namespace Sys2Proof.Safety

open Sys2Proof.Machine

/-- The digit string has enough digits for the width (R74), and its trailing bits are the field (R78). -/
theorem encodeBySteps_eq_bcdEncode (value width : Nat) : encodeBySteps value width = bcdEncode value width := by
  let m := max (digitCount width) (ndigits value)
  have hfits : width ≤ 4 * m := by
    have hm : digitCount width ≤ m := le_max_left _ _
    unfold digitCount at hm
    omega
  have hstring : (digitString value width).flatMap nibble = bcdEncode value (4 * m) := flatMap_nibble_digits value m
  simpa [encodeBySteps, hstring, hfits] using drop_bcdEncode value width (4 * m - width)

theorem nibbleValue_nibble {d : Nat} (hd : d < 16) : nibbleValue (nibble d) = d := by
  revert d; decide

/-- Decoding takes the first nibble as the digit of the highest weight. -/
theorem bcdDecode_nibble_append {d : Nat} (hd : d < 16) (n : Nat) (bs : List Bool) :
    bcdDecode (n + 1) (nibble d ++ bs) = d * 10 ^ n + bcdDecode n bs := by
  rw [bcdDecode, List.take_left' (nibble_length d), List.drop_left' (nibble_length d), nibbleValue_nibble hd]

/-- Whole nibbles decode to the low-order digits of the value. -/
theorem bcdDecode_bcdEncode (value n : Nat) : bcdDecode n (bcdEncode value (4 * n)) = value % 10 ^ n := by
  induction n with
  | zero => simp [bcdDecode, Nat.mod_one]
  | succ n ih =>
    have hd : digit value n < 16 := (digit_lt value n).trans (by decide)
    rw [bcdEncode_four_mul_succ, bcdDecode_nibble_append hd, ih, Nat.mod_pow_succ, digit]
    ring

/-- Padding a cut first nibble with zeros keeps its low `r` bits. -/
theorem padToNibbles_bcdEncode (value n : Nat) {r : Nat} (hr : r = 1 ∨ r = 2 ∨ r = 3) :
    padToNibbles (bcdEncode value (4 * n + r)) = nibble (digit value n % 2 ^ r) ++ bcdEncode value (4 * n) := by
  have hpad : 4 * digitCount (4 * n + r) - (4 * n + r) = 4 - r := by unfold digitCount; omega
  have hdiv : ∀ j, j < 4 → (4 * n + j) / 4 = n := by omega
  have hmod : ∀ j, j < 4 → (4 * n + j) % 4 = j := by omega
  rw [padToNibbles, bcdEncode_length, hpad]
  simp only [nibble, Nat.testBit_mod_two_pow]
  rcases hr with rfl | rfl | rfl <;> simp [bcdEncode_succ, hdiv, hmod]

/-- A cut first nibble decodes to the bits that survive of its digit. -/
theorem bcdDecode_padToNibbles (value n : Nat) {r : Nat} (hr : r = 1 ∨ r = 2 ∨ r = 3) :
    bcdDecode (n + 1) (padToNibbles (bcdEncode value (4 * n + r))) =
      digit value n % 2 ^ r * 10 ^ n + value % 10 ^ n := by
  have hd : digit value n % 2 ^ r < 16 := (Nat.mod_le _ _).trans_lt ((digit_lt value n).trans (by decide))
  rw [padToNibbles_bcdEncode value n hr, bcdDecode_nibble_append hd, bcdDecode_bcdEncode]

/-- The surviving bits of digit `n` are the whole of the value above its low `n` digits exactly when that is below `2 ^ r`. -/
theorem digit_mod_two_pow_eq_div_iff (value n : Nat) {r : Nat} (hr : r = 1 ∨ r = 2 ∨ r = 3) :
    digit value n % 2 ^ r = value / 10 ^ n ↔ value / 10 ^ n < 2 ^ r := by
  unfold digit
  generalize value / 10 ^ n = q
  rcases hr with rfl | rfl | rfl <;> omega

/-- R84 (b). -/
theorem bcdDecode_padToNibbles_eq_self_iff (value n : Nat) {r : Nat} (hr : r = 1 ∨ r = 2 ∨ r = 3) :
    bcdDecode (n + 1) (padToNibbles (bcdEncode value (4 * n + r))) = value ↔ value < 2 ^ r * 10 ^ n := by
  have hpow : 0 < 10 ^ n := Nat.pow_pos (by decide)
  calc bcdDecode (n + 1) (padToNibbles (bcdEncode value (4 * n + r))) = value
      ↔ digit value n % 2 ^ r * 10 ^ n + value % 10 ^ n = value / 10 ^ n * 10 ^ n + value % 10 ^ n := by
        rw [bcdDecode_padToNibbles value n hr, Nat.div_add_mod']
    _ ↔ digit value n % 2 ^ r = value / 10 ^ n := by
        rw [Nat.add_right_cancel_iff, Nat.mul_left_inj hpow.ne']
    _ ↔ value / 10 ^ n < 2 ^ r := digit_mod_two_pow_eq_div_iff value n hr
    _ ↔ value < 2 ^ r * 10 ^ n := Nat.div_lt_iff_lt_mul hpow

end Sys2Proof.Safety

namespace Sys2Proof.Proofs

open Sys2Proof.Machine Sys2Proof.Safety

/-- Settles O1: the steps cut the trailing bits off a field of whole nibbles, and those are the narrower field. -/
theorem encodeFollowsTheFiveSteps : Obligations.EncodeFollowsTheFiveSteps := by
  unfold Obligations.EncodeFollowsTheFiveSteps
  intro value width _
  exact ⟨(encodeBySteps_eq_bcdEncode value width).symm, bcdEncode_length value width⟩

/-- Settles O2: `ENCODE` delivers the closed form, which is the field of the five steps. -/
theorem encodeDeliversTheField : Obligations.EncodeDeliversTheField := by
  unfold Obligations.EncodeDeliversTheField
  refine ⟨fun value width s hwidth => ?_, fun _ _ => rfl⟩
  rw [exec_encode hwidth, encodeBySteps_eq_bcdEncode]
  rfl

/-- Settles O3: every digit that reaches the field is a digit of the value modulo `10 ^ n`; each port is too narrow for an
overflow (R83). -/
theorem encodeTruncatesInSilence : Obligations.EncodeTruncatesInSilence := by
  unfold Obligations.EncodeTruncatesInSilence
  refine ⟨fun value width => (bcdEncode_mod_pow value width).symm,
    fun value width s hwidth => ⟨_, exec_encode hwidth value s, rfl⟩, fun smp => ?_⟩
  simp only [bcdOverflow_eq_false_iff]
  exact ⟨smp.sec.isLt.trans (by decide), smp.min.isLt.trans (by decide), smp.hour.isLt.trans (by decide),
    smp.doy.isLt.trans (by decide)⟩

/-- Settles O4: whole nibbles decode to the value modulo `10 ^ n`; another width is `4 * n + r` with `r` bits of digit `n`. -/
theorem encodedValuesReadBack : Obligations.EncodedValuesReadBack := by
  unfold Obligations.EncodedValuesReadBack
  refine ⟨fun n value _ => ?_, fun width value hwidth => ?_, by decide, by decide⟩
  · rw [bcdDecode_bcdEncode]
    exact Nat.mod_eq_iff_lt (pow_ne_zero n (by decide))
  · have hcount : digitCount width = width / 4 + 1 := by unfold digitCount; omega
    have hr : width % 4 = 1 ∨ width % 4 = 2 ∨ width % 4 = 3 := by omega
    simpa [hcount, Nat.div_add_mod] using bcdDecode_padToNibbles_eq_self_iff value (width / 4) hr

end Sys2Proof.Proofs

/-! ## The frame builder (42): O6, O7, O8, O9, O12, O13 -/

namespace Sys2Proof.Machine

/-! ### Where a field lands (R88 to R92) -/

/-- A field of 8 elements fills the 8 slots from its first. -/
theorem writeField_getLsbD_of_length_eq_eight (f : Frame) (a : Nat) {bs : List Bool} (hbs : bs.length = 8) {k : Nat}
    (hk : k < 60) :
    (writeField f a bs).getLsbD k = if a ≤ k ∧ k ≤ a + 7 then bs.getD (k - a) false else f.getLsbD k := by
  simp only [writeField_getLsbD _ _ _ _ hk, hbs, Nat.lt_succ_iff (n := a + 7)]

theorem putSeconds_getLsbD (f : Frame) {bs : List Bool} (hbs : bs.length = 8) {k : Nat} (hk : k < 60) :
    (putSeconds f bs).getLsbD k = if 1 ≤ k ∧ k ≤ 8 then bs.getD (k - 1) false else f.getLsbD k :=
  writeField_getLsbD_of_length_eq_eight f 1 hbs hk

theorem putMinutes_getLsbD (f : Frame) {bs : List Bool} (hbs : bs.length = 8) {k : Nat} (hk : k < 60) :
    (putMinutes f bs).getLsbD k = if 10 ≤ k ∧ k ≤ 17 then bs.getD (k - 10) false else f.getLsbD k :=
  writeField_getLsbD_of_length_eq_eight f 10 hbs hk

theorem putHours_getLsbD (f : Frame) {bs : List Bool} (hbs : bs.length = 8) {k : Nat} (hk : k < 60) :
    (putHours f bs).getLsbD k = if 20 ≤ k ∧ k ≤ 27 then bs.getD (k - 20) false else f.getLsbD k :=
  writeField_getLsbD_of_length_eq_eight f 20 hbs hk

/-- The slots of the four fields are disjoint, so the order in which they are written does not matter (R93). -/
theorem putSeconds_putMinutes_putHours_putDoy (f : Frame) {sec min hour doy : List Bool} (hsec : sec.length = 8)
    (hmin : min.length = 8) (hhour : hour.length = 8) (hdoy : doy.length = 17) :
    putSeconds (putMinutes (putHours (putDoy f doy) hour) min) sec =
      putDoy (putHours (putMinutes (putSeconds f sec) min) hour) doy := by
  refine BitVec.eq_of_getLsbD_eq fun k hk => ?_
  simp only [putSeconds_getLsbD _ hsec hk, putMinutes_getLsbD _ hmin hk, putHours_getLsbD _ hhour hk,
    putDoy_getLsbD _ hdoy hk]
  grind

/-! ### The built frame -/

/-- Every bit of a built frame: the element of its field, 0 in the padding, else the bit of the marked frame. -/
theorem build_getLsbD (sec min hour doy : Nat) {k : Nat} (hk : k < 60) :
    (build sec min hour doy).getLsbD k =
      if 30 ≤ k ∧ k ≤ 46 then (bcdEncode doy 17).getD (k - 30) false
      else if k = 47 ∨ k = 48 then false
      else if 20 ≤ k ∧ k ≤ 27 then (bcdEncode hour 8).getD (k - 20) false
      else if 10 ≤ k ∧ k ≤ 17 then (bcdEncode min 8).getD (k - 10) false
      else if 1 ≤ k ∧ k ≤ 8 then (bcdEncode sec 8).getD (k - 1) false
      else decide (k % 10 = 0) := by
  rw [build, putDoy_getLsbD _ (bcdEncode_length doy 17) hk, putHours_getLsbD _ (bcdEncode_length hour 8) hk,
    putMinutes_getLsbD _ (bcdEncode_length min 8) hk, putSeconds_getLsbD _ (bcdEncode_length sec 8) hk,
    markedFrame_getLsbD k hk]

/-- In the slots of the day of year a built frame holds the bits of the day's digits, counted down from index 46 (R92). -/
theorem build_getLsbD_doy (sec min hour doy : Nat) {k : Nat} (hk : 30 ≤ k ∧ k ≤ 46) :
    (build sec min hour doy).getLsbD k = (digit doy ((46 - k) / 4)).testBit ((46 - k) % 4) := by
  rw [build_getLsbD sec min hour doy (by omega), if_pos hk, bcdEncode_getD doy 17 _ (by omega),
    show 17 - 1 - (k - 30) = 46 - k by omega]

/-- No other slot depends on the day. -/
theorem build_getLsbD_congr_doy (sec min hour d e : Nat) {k : Nat} (hk : k < 60) (hdoy : ¬ (30 ≤ k ∧ k ≤ 46)) :
    (build sec min hour d).getLsbD k = (build sec min hour e).getLsbD k := by
  simp only [build_getLsbD _ _ _ _ hk, if_neg hdoy]

/-- R94: the table, row by row. -/
theorem build_getLsbD_eq_frameTable (sec min hour doy : Nat) {k : Nat} (hk : k < 60) :
    (build sec min hour doy).getLsbD k = Safety.frameTable sec min hour doy k := by
  rw [build_getLsbD sec min hour doy hk]
  interval_cases k <;> rfl

/-- The symbol of an index is that of its bit, and of a marker slot whatever is stored there (R101, R107). -/
theorem sym_congr {f g : Frame} {k : Nat} (h : k % 10 ≠ 0 → f.getLsbD k = g.getLsbD k) : sym f k = sym g k := by
  unfold sym Config.markPeriod
  split
  case isTrue => rfl
  case isFalse hmark => rw [h hmark]

/-! ### Digits and their fields (R55, R75) -/

/-- A bit of a digit is 0 in every value below its weight. -/
theorem testBit_digit_eq_false {value k q : Nat} (h : value < 2 ^ k * 10 ^ q) : (digit value q).testBit k = false :=
  Nat.testBit_lt_two_pow <| calc
    digit value q ≤ value / 10 ^ q := Nat.mod_le _ _
    _ < 2 ^ k := Nat.div_lt_of_lt_mul (by rwa [Nat.mul_comm])

/-- The nibbles of two digits are the field of their value. -/
theorem bcdEncode_two_digits (t u : Digit) : bcdEncode (10 * t.val + u.val) 8 = nibble t ++ nibble u := by
  have ht : digit (10 * t.val + u.val) 1 = t := by unfold digit; omega
  have hu : digit (10 * t.val + u.val) 0 = u := by unfold digit; omega
  have hfield (v : Nat) : bcdEncode v 8 = nibble (digit v 1) ++ nibble (digit v 0) := (flatMap_nibble_digits v 2).symm
  rw [hfield, ht, hu]

/-- The low bit of the highest digit and the nibbles of the four others are the field of the value of the five. -/
theorem bcdEncode_five_digits (p : Bool) (k h t u : Digit) :
    bcdEncode (10000 * p.toNat + 1000 * k.val + 100 * h.val + 10 * t.val + u.val) 17 =
      p :: (nibble k ++ nibble h ++ nibble t ++ nibble u) := by
  have hp : p.toNat ≤ 1 := Bool.toNat_le p
  generalize hv : 10000 * p.toNat + 1000 * k.val + 100 * h.val + 10 * t.val + u.val = v
  have h4 : digit v 4 = p.toNat := by unfold digit; omega
  have h3 : digit v 3 = k := by unfold digit; omega
  have h2 : digit v 2 = h := by unfold digit; omega
  have h1 : digit v 1 = t := by unfold digit; omega
  have h0 : digit v 0 = u := by unfold digit; omega
  have hbit : p.toNat.testBit 0 = p := by cases p <;> rfl
  have hfield : bcdEncode v 16 = nibble (digit v 3) ++ nibble (digit v 2) ++ nibble (digit v 1) ++ nibble (digit v 0) :=
    (flatMap_nibble_digits v 4).symm
  rw [bcdEncode_succ, hfield, h4, h3, h2, h1, h0, hbit]

/-! ### The operations (R89 to R92) -/

section
variable (s : State)

/-- `FIELD.SEC` writes the field of the value of its digits. -/
theorem exec_fieldSec (t u : Digit) :
    exec (.fieldSec t u) s = .next (s.deliverFrame (putSeconds s.func.frame (bcdEncode (10 * t.val + u.val) 8))) := by
  rw [bcdEncode_two_digits]; rfl

/-- `FIELD.MIN` writes the field of the value of its digits. -/
theorem exec_fieldMin (t u : Digit) :
    exec (.fieldMin t u) s = .next (s.deliverFrame (putMinutes s.func.frame (bcdEncode (10 * t.val + u.val) 8))) := by
  rw [bcdEncode_two_digits]; rfl

/-- `FIELD.HOUR` writes the field of the value of its digits. -/
theorem exec_fieldHour (t u : Digit) :
    exec (.fieldHour t u) s = .next (s.deliverFrame (putHours s.func.frame (bcdEncode (10 * t.val + u.val) 8))) := by
  rw [bcdEncode_two_digits]; rfl

/-- `FIELD.DOY` writes the field of the value of its digits, and the padding. -/
theorem exec_fieldDoy (p : Bool) (k h t u : Digit) :
    exec (.fieldDoy p k h t u) s = .next (s.deliverFrame (putDoy s.func.frame
      (bcdEncode (10000 * p.toNat + 1000 * k.val + 100 * h.val + 10 * t.val + u.val) 17))) := by
  rw [bcdEncode_five_digits]; rfl

end

end Sys2Proof.Machine

namespace Sys2Proof.Proofs

open Sys2Proof.Machine Sys2Proof.Safety

/-- Settles O6: `BUILD` delivers `build` of its sample, and every bit of that is the table's. -/
theorem buildBitByBit : Obligations.BuildBitByBit := by
  unfold Obligations.BuildBitByBit
  exact ⟨fun smp _ => ⟨buildSample smp, rfl, fun _ hk => build_getLsbD_eq_frameTable _ _ _ _ hk⟩,
    fun sec min hour doy _ hk => build_getLsbD_eq_frameTable sec min hour doy hk⟩

/-- Settles O7: an encoded field has the length of its slots. -/
theorem fieldsAreWrittenElementZeroFirst : Obligations.FieldsAreWrittenElementZeroFirst := by
  unfold Obligations.FieldsAreWrittenElementZeroFirst
  intro f x k hk
  have h8 : (bcdEncode x 8).length = 8 := bcdEncode_length x 8
  have h17 : (bcdEncode x 17).length = 17 := bcdEncode_length x 17
  exact ⟨putSeconds_getLsbD f h8 hk, putMinutes_getLsbD f h8 hk, putHours_getLsbD f h8 hk, putDoy_getLsbD f h17 hk⟩

/-- Settles O8: each operation writes the encoded value of its digits, and that write is the one of O7. -/
theorem fieldsWriteTheirSlots : Obligations.FieldsWriteTheirSlots := by
  unfold Obligations.FieldsWriteTheirSlots
  refine ⟨fun t u s => ⟨_, exec_fieldSec s t u, fun _ hk => ?sec⟩,
    fun t u s => ⟨_, exec_fieldMin s t u, fun _ hk => ?min⟩,
    fun t u s => ⟨_, exec_fieldHour s t u, fun _ hk => ?hour⟩,
    fun p k h t u s => ⟨_, exec_fieldDoy s p k h t u, fun _ hk => ?doy⟩⟩
  case sec => exact putSeconds_getLsbD _ (bcdEncode_length _ 8) hk
  case min => exact putMinutes_getLsbD _ (bcdEncode_length _ 8) hk
  case hour => exact putHours_getLsbD _ (bcdEncode_length _ 8) hk
  case doy => exact putDoy_getLsbD _ (bcdEncode_length _ 17) hk

/-- Settles O9: in the document's order the four operations are `build` itself, and the reverse order makes no difference. -/
theorem fieldsTogetherMakeTheBuiltFrame : Obligations.FieldsTogetherMakeTheBuiltFrame := by
  unfold Obligations.FieldsTogetherMakeTheBuiltFrame
  intro s1 s0 m1 m0 h1 h0 d4 d3 d2 d1 d0 s hs
  have hmarked : s.func.frame = markedFrame := hs.trans (by decide)
  refine ⟨⟨_, _, _, _, exec_fieldSec _ s1 s0, exec_fieldMin _ m1 m0, exec_fieldHour _ h1 h0,
      exec_fieldDoy _ d4 d3 d2 d1 d0, ?forward⟩,
    ⟨_, _, _, _, exec_fieldDoy _ d4 d3 d2 d1 d0, exec_fieldHour _ h1 h0, exec_fieldMin _ m1 m0,
      exec_fieldSec _ s1 s0, ?reverse⟩⟩
  case forward => simp only [State.deliverFrame_func_frame, hmarked, build]
  case reverse =>
    simp only [State.deliverFrame_func_frame, hmarked, build]
    exact putSeconds_putMinutes_putHours_putDoy _ (bcdEncode_length _ 8) (bcdEncode_length _ 8)
      (bcdEncode_length _ 8) (bcdEncode_length _ 17)

/-- Settles O12: the table has the value itself at the positions of the layout, and elsewhere a bit of a digit whose weight the
port, or a valid day, does not reach. -/
theorem builtFramesHaveConstantBits : Obligations.BuiltFramesHaveConstantBits := by
  unfold Obligations.BuiltFramesHaveConstantBits
  intro smp
  have hsec : smp.sec.toNat < 64 := smp.sec.isLt
  have hmin : smp.min.toNat < 64 := smp.min.isLt
  have hhour : smp.hour.toNat < 32 := smp.hour.isLt
  have hdoy : smp.doy.toNat < 512 := smp.doy.isLt
  have hbit {k : Nat} (hk : k < 60) :=
    build_getLsbD_eq_frameTable smp.sec.toNat smp.min.toNat smp.hour.toNat smp.doy.toNat hk
  refine ⟨hbit (by decide), hbit (by decide), ?zeros, fun _ hvalid => ?day⟩
  case zeros =>
    simp (disch := omega) only [buildSample, List.forall_mem_cons, List.not_mem_nil, false_imp_iff, implies_true,
      hbit, frameTable, testBit_digit_eq_false, and_self]
  case day => exact (hbit (by decide)).trans (testBit_digit_eq_false (k := 2) (q := 2) (by omega))

/-- Settles O13: index 40 alone is the weight-4 bit of the tens digit of the day, and it is a marker slot. -/
theorem daysThatShareASignal : Obligations.DaysThatShareASignal := by
  unfold Obligations.DaysThatShareASignal
  intro sec min hour d e hother htens k hk
  have hbit : (build sec min hour d).getLsbD k = (build sec min hour e).getLsbD k ↔ k ≠ 40 := by
    by_cases hdoy : 30 ≤ k ∧ k ≤ 46
    · rw [build_getLsbD_doy _ _ _ _ hdoy, build_getLsbD_doy _ _ _ _ hdoy]
      by_cases hq : (46 - k) / 4 = 1
      · rw [hq, htens _ (Nat.mod_lt _ (by decide))]
        omega
      · rw [hother _ (by omega) hq]
        simp only [true_iff]
        omega
    · simp only [build_getLsbD_congr_doy sec min hour d e hk hdoy, true_iff]
      omega
  exact ⟨sym_congr fun hmark => hbit.mpr (by omega), hbit⟩

end Sys2Proof.Proofs

/-! ## The frame transmitter (43): O14, O15, O16, O32, O33, O34, O17, O52 -/

namespace Sys2Proof.Machine

open Sys2Proof.Safety

/-! ### The phases of a bit (R105) -/

section
variable (p : Params) (y : Symbol)

theorem two_le_loTicks : 2 ≤ loTicks y := Nat.le_sub_of_add_le (Nat.add_le_add_left (hiTicks_bounds y).2 2)

theorem two_mul_tickDiv_le_hiLen : 2 * p.tickDiv ≤ hiLen p y := Nat.mul_le_mul_right _ (hiTicks_bounds y).1

theorem two_mul_tickDiv_le_loLen : 2 * p.tickDiv ≤ loLen p y := Nat.mul_le_mul_right _ (two_le_loTicks y)

/-- A bit takes the same time whatever its symbol. -/
theorem hiLen_add_loLen : hiLen p y + loLen p y = 10 * p.tickDiv := by
  have hticks : hiTicks y + loTicks y = 10 := by cases y <;> rfl
  rw [hiLen, loLen, ← Nat.add_mul, hticks]

end

/-! ### The rules of the two phases, case by case (R110 to R113) -/

section
variable {p : Params} {r : Regs} {i : Inputs} {y : Symbol}

theorem highRule_of_ne_last (h : r.cyc ≠ hiLen p y - 1) :
    highRule p r i y = { r with cyc := r.cyc + 1, cancel := cancelReq r i, done := false } := if_neg h

theorem highRule_of_last (h : r.cyc = hiLen p y - 1) :
    highRule p r i y = { r with st := .low, cyc := 0, cancel := cancelReq r i, done := false } := if_pos h

theorem lowRule_of_ne_last (h : r.cyc ≠ loLen p y - 1) :
    lowRule p r i y = { r with cyc := r.cyc + 1, cancel := cancelReq r i, done := false } := if_neg h

theorem lowRule_of_last (h : r.cyc = loLen p y - 1) : lowRule p r i y = bitBoundary r i := if_pos h

theorem bitBoundary_of_cancelReq (h : cancelReq r i = true) :
    bitBoundary r i = { r with st := .rel, cyc := 0, cancel := true, done := doneAtBoundary r } := by
  simp [bitBoundary, h]

theorem bitBoundary_of_last_bit (h : cancelReq r i = false) (hb : r.bitIdx = 59#6) :
    bitBoundary r i = { r with cancel := false, done := true }.beginFrame i := by
  simp [bitBoundary, h, hb, doneAtBoundary]

theorem bitBoundary_of_ne_last_bit (h : cancelReq r i = false) (hb : r.bitIdx ≠ 59#6) :
    bitBoundary r i =
      { r with bitIdx := r.bitIdx + 1#6, st := .high, cyc := 0, cancel := false, done := false } := by
  simp [bitBoundary, h, hb, doneAtBoundary]

/-- Every way out of the bit boundary leaves the low phase, with the counter at 0. -/
theorem bitBoundary_leaves_low (r : Regs) (i : Inputs) : (bitBoundary r i).st ≠ .low ∧ (bitBoundary r i).cyc = 0 := by
  unfold bitBoundary
  split
  · simp
  · split <;> simp

end

/-! ### A cycle in which no failing answer is read -/

theorem causeNow_of_not_faultRead {s : State} (h : ¬ FaultRead s) : causeNow s.regs s.ports = .none := by
  have hconfig : ¬ (s.ports.sinkFault = true ∧ s.regs.st = .config) := fun ⟨hf, hs⟩ => h ⟨hf, .inl hs⟩
  have hphase : ¬ (s.ports.sinkFault = true ∧ (s.regs.st = .high ∨ s.regs.st = .low) ∧ s.regs.cyc = 0) :=
    fun ⟨hf, hs, hc⟩ => h ⟨hf, .inr (hs.imp (⟨·, hc⟩) (⟨·, hc⟩))⟩
  rw [causeNow_eq, if_neg hconfig, if_neg hphase]

section
variable {s : State} (hr : s.ports.rst = false) (hf : ¬ FaultRead s) (y : Symbol)
include hr hf

/-- A cycle of a high phase follows the rule of `HIGH`, whatever the symbol in it. -/
theorem cycleSym_regs_high (hs : s.regs.st = .high) :
    (s.cycleSym y).regs = highRule s.params s.regs s.ports y := by
  simp [State.cycleSym, causeNow_of_not_faultRead hf, edge, hr, hs]

/-- A cycle of a low phase follows the rule of `LOW`, whatever the symbol in it. -/
theorem cycleSym_regs_low (hs : s.regs.st = .low) :
    (s.cycleSym y).regs = lowRule s.params s.regs s.ports y := by
  simp [State.cycleSym, causeNow_of_not_faultRead hf, edge, hr, hs]

/-- The block's own cycle is the one in which the bit on the line has its symbol (R101). -/
theorem clock_regs_high (hs : s.regs.st = .high) :
    s.clock.regs = highRule s.params s.regs s.ports (symOf s.regs) :=
  cycleSym_regs_high hr hf (symOf s.regs) hs

theorem clock_regs_low (hs : s.regs.st = .low) :
    s.clock.regs = lowRule s.params s.regs s.ports (symOf s.regs) :=
  cycleSym_regs_low hr hf (symOf s.regs) hs

end

theorem cycleSym_eq_nextCycle (s : State) (y : Symbol) :
    s.cycleSym y = nextCycle s (s.cycleSym y).regs (callsAfter s.regs s.calls) := by
  rw [← logCall_eq_callsAfter]
  rfl

/-- The three symbol operations with the ticks of their phases (R102, R103, R104). -/
theorem exec_symbol {i : Instr} {h l : Nat}
    (hi : ((∃ b, i = .symMark b) ∧ h = 8 ∧ l = 2) ∨ (i = .symOne ∧ h = 5 ∧ l = 5) ∨ (i = .symZero ∧ h = 2 ∧ l = 8)) :
    ∃ y, hiTicks y = h ∧ loTicks y = l ∧ ∀ s, exec i s = .next (s.cycleSym y) := by
  rcases hi with ⟨⟨b, rfl⟩, rfl, rfl⟩ | ⟨rfl, rfl, rfl⟩ | ⟨rfl, rfl, rfl⟩ <;> exact ⟨_, rfl, rfl, fun _ => rfl⟩

/-- With nothing queued a step goes to the registers of the block's own cycle. -/
theorem stepsTo_of_clock_regs {s : State} {r : Regs} (hq : s.queue = []) (h : s.clock.regs = r) : StepsTo s r :=
  ⟨s.clock, step_of_queue_nil hq, h, rfl⟩

end Sys2Proof.Machine

namespace Sys2Proof.Proofs

open Sys2Proof.Machine Sys2Proof.Safety

/-- Settles O14: `SYM` delivers `sym`, which is that case analysis. -/
theorem symTestsTheMarkerFirst : Obligations.SymTestsTheMarkerFirst :=
  fun _ _ _ => rfl

/-- Settles O15: each operation is the cycle with its symbol in place, and in a phase that is the rule of the phase. -/
theorem symbolsTimeTheirPhases : Obligations.SymbolsTimeTheirPhases := by
  unfold Obligations.SymbolsTimeTheirPhases
  intro i h l s hi
  obtain ⟨y, rfl, rfl, hexec⟩ := exec_symbol hi
  refine ⟨s.cycleSym y, hexec s, cycleSym_eq_nextCycle s y, fun hr hf =>
    ⟨fun hs hc => ?high, fun hs hc => ?lastHigh, fun hs hc => ?low, fun hs hc => ?lastLow⟩⟩
  case high => exact (cycleSym_regs_high hr hf y hs).trans (highRule_of_ne_last (Nat.ne_of_lt hc))
  case lastHigh => exact (cycleSym_regs_high hr hf y hs).trans (highRule_of_last hc)
  case low => exact (cycleSym_regs_low hr hf y hs).trans (lowRule_of_ne_last (Nat.ne_of_lt hc))
  case lastLow =>
    rw [cycleSym_regs_low hr hf y hs, lowRule_of_last hc]
    exact bitBoundary_leaves_low s.regs s.ports

/-- Settles O16: the lengths are those of the ticks of each symbol. -/
theorem phasesSumToOneBit : Obligations.PhasesSumToOneBit := by
  unfold Obligations.PhasesSumToOneBit
  intro p f i
  refine ⟨?high, ?low, hiLen_add_loLen p _, two_mul_tickDiv_le_hiLen p _, two_mul_tickDiv_le_loLen p _,
    Nat.mul_le_mul_left 2 (tickDiv_pos p)⟩
  case high => cases sym f i <;> rfl
  case low => cases sym f i <;> rfl

/-- Settles O32: the block's own cycle follows the rule of `HIGH`. -/
theorem highPhaseCountsAndEnds : Obligations.HighPhaseCountsAndEnds := by
  unfold Obligations.HighPhaseCountsAndEnds
  intro s hs hr hq hf
  have hrule := clock_regs_high hr hf hs
  exact ⟨fun hc => stepsTo_of_clock_regs hq (hrule.trans (highRule_of_ne_last (Nat.ne_of_lt hc))),
    fun hc => ⟨stepsTo_of_clock_regs hq (hrule.trans (highRule_of_last hc)), rfl, rfl⟩⟩

/-- Settles O33: the block's own cycle follows the rule of `LOW`. -/
theorem lowPhaseCounts : Obligations.LowPhaseCounts := by
  unfold Obligations.LowPhaseCounts
  intro s hs hr hq hf hc
  exact stepsTo_of_clock_regs hq ((clock_regs_low hr hf hs).trans (lowRule_of_ne_last (Nat.ne_of_lt hc)))

/-- Settles O34: the last cycle of a low phase reads no answer, so the rule of `LOW` holds and is the bit boundary. -/
theorem bitBoundaryChooses : Obligations.BitBoundaryChooses := by
  unfold Obligations.BitBoundaryChooses
  intro s hs hr hq hc req
  have hrule : s.clock.regs = bitBoundary s.regs s.ports :=
    (clock_regs_low hr (not_faultRead_of_last_low hs hc) hs).trans (lowRule_of_last hc)
  exact ⟨fun hreq => stepsTo_of_clock_regs hq (hrule.trans (bitBoundary_of_cancelReq hreq)),
    fun hreq hb => stepsTo_of_clock_regs hq (hrule.trans (bitBoundary_of_last_bit hreq hb)),
    fun hreq hb => stepsTo_of_clock_regs hq (hrule.trans (bitBoundary_of_ne_last_bit hreq hb))⟩

end Sys2Proof.Proofs

namespace Sys2Proof.Machine

open Sys2Proof.Safety

/-! ### Frames that differ in marker slots only (R107)

No rule looks at the frame: it carries the frame over or writes a new one. The frame acts through the symbol of the bit on the
line alone, and that is blind to the marker slots. -/

/-- The registers with another frame in them. -/
def Regs.withFrame (r : Regs) (g : Frame) : Regs := { r with frame := g }

/-- The state with another frame in its registers. -/
def State.withFrame (s : State) (g : Frame) : State := { s with regs := s.regs.withFrame g }

@[simp] theorem Regs.withFrame_st (r : Regs) (g : Frame) : (r.withFrame g).st = r.st := rfl

@[simp] theorem cancelReq_withFrame (r : Regs) (g : Frame) (i : Inputs) :
    cancelReq (r.withFrame g) i = cancelReq r i := rfl

/-- At `r` the rule carries over whatever frame it finds, or leaves the same registers whatever frame it finds. -/
def FrameBlind (rule : Regs → Regs) (r : Regs) : Prop :=
  (∀ g, rule (r.withFrame g) = (rule r).withFrame g) ∨ (∀ g, rule (r.withFrame g) = rule r)

/-- A rule that agrees with a blind one, whatever the frame, is blind. -/
theorem FrameBlind.of_agree {rule rule' : Regs → Regs} {r : Regs} (h : FrameBlind rule' r)
    (hagree : ∀ g, rule (r.withFrame g) = rule' (r.withFrame g)) : FrameBlind rule r := by
  have hself : rule r = rule' r := hagree r.frame
  exact h.imp (fun hcarried g => by rw [hagree, hself, hcarried]) (fun hwritten g => by rw [hagree, hself, hwritten])

section
variable (p : Params) (r : Regs) (i : Inputs) (y : Symbol)

theorem frameBlind_idleRule : FrameBlind (idleRule · i) r := by
  refine .inl fun g => ?_
  simp only [idleRule]
  split <;> rfl

/-- Cancelled, `CONFIG` keeps the frame; else it builds one (R124, R126). -/
theorem frameBlind_configRule : FrameBlind (configRule · i) r := by
  cases hq : cancelReq r i with
  | true => exact .inl fun g => by simp only [configRule, cancelReq_withFrame, hq]; rfl
  | false => exact .inr fun g => by simp only [configRule, cancelReq_withFrame, hq]; rfl

theorem frameBlind_highRule : FrameBlind (highRule p · i y) r := by
  by_cases hc : r.cyc = hiLen p y - 1
  · exact .inl fun g => by simp only [highRule_of_last (r := r.withFrame g) hc, highRule_of_last hc]; rfl
  · exact .inl fun g => by simp only [highRule_of_ne_last (r := r.withFrame g) hc, highRule_of_ne_last hc]; rfl

/-- The bit boundary builds a frame after bit 59 if not cancelled, and else keeps the one there is (R113). -/
theorem frameBlind_bitBoundary : FrameBlind (bitBoundary · i) r := by
  cases hq : cancelReq r i with
  | true => exact .inl fun g => by simp only [bitBoundary_of_cancelReq, cancelReq_withFrame, hq]; rfl
  | false =>
    by_cases hb : r.bitIdx = 59#6
    · exact .inr fun g => by
        simp only [bitBoundary_of_last_bit hq hb, bitBoundary_of_last_bit (r := r.withFrame g) hq hb]; rfl
    · exact .inl fun g => by
        simp only [bitBoundary_of_ne_last_bit hq hb, bitBoundary_of_ne_last_bit (r := r.withFrame g) hq hb]; rfl

theorem frameBlind_lowRule : FrameBlind (lowRule p · i y) r := by
  by_cases hc : r.cyc = loLen p y - 1
  · exact (frameBlind_bitBoundary r i).of_agree fun _ => lowRule_of_last hc
  · exact .inl fun g => by simp only [lowRule_of_ne_last (r := r.withFrame g) hc, lowRule_of_ne_last hc]; rfl

/-- `ABORT` builds a frame on a retry, and else keeps the one there is (R150). -/
theorem frameBlind_leaveAbort : FrameBlind (leaveAbort p · i) r := by
  cases hretry : p.retryOnIoErr && !cancelReq r i with
  | true => exact .inr fun g => by simp only [leaveAbort, cancelReq_withFrame, hretry]; rfl
  | false => exact .inl fun g => by simp only [leaveAbort, cancelReq_withFrame, hretry]; rfl

theorem frameBlind_relRule : FrameBlind relRule r := .inl fun _ => rfl

/-- For a symbol and an error given, no edge looks at the frame. -/
theorem frameBlind_edge (c : ErrCode) : FrameBlind (edge p · i y c) r := by
  cases hr : i.rst with
  | true => exact .inr fun _ => (edge_reset hr).trans (edge_reset hr).symm
  | false =>
    cases c with
    | ioConfig => exact .inl fun g => by simp only [edge_ioConfig hr]; rfl
    | transmit => exact .inl fun g => by simp only [edge_transmit hr]; rfl
    | none | encoding | invariant =>
      cases hs : r.st with
      | idle => exact (frameBlind_idleRule r i).of_agree fun _ => by simp [edge, hr, hs]
      | config => exact (frameBlind_configRule r i).of_agree fun _ => by simp [edge, hr, hs]
      | high => exact (frameBlind_highRule p r i y).of_agree fun _ => by simp [edge, hr, hs]
      | low => exact (frameBlind_lowRule p r i y).of_agree fun _ => by simp [edge, hr, hs]
      | abort => exact (frameBlind_leaveAbort p r i).of_agree fun _ => by simp [edge, hr, hs]
      | rel => exact (frameBlind_relRule r).of_agree fun _ => by simp [edge, hr, hs]

end

section
variable {r : Regs} {g : Frame} (h : SameOffMarkers r.frame g)
include h

theorem symOf_withFrame : symOf (r.withFrame g) = symOf r :=
  sym_congr fun hmark => by
    by_cases hk : r.bitIdx.toNat < 60
    · exact (h _ hk hmark).symm
    · have hge : 60 ≤ r.bitIdx.toNat := Nat.le_of_not_lt hk
      exact (BitVec.getLsbD_of_ge g _ hge).trans (BitVec.getLsbD_of_ge r.frame _ hge).symm

/-- A cycle of the block keeps the difference in marker slots, or drops it, and makes no other. -/
theorem exists_stepRegs_withFrame (p : Params) (i : Inputs) :
    ∃ g', SameOffMarkers (stepRegs p r i).frame g' ∧ stepRegs p (r.withFrame g) i = (stepRegs p r i).withFrame g' := by
  have hedge : stepRegs p (r.withFrame g) i = edge p (r.withFrame g) i (symOf r) (causeNow r i) := by
    rw [stepRegs, symOf_withFrame h]; rfl
  rcases frameBlind_edge p r i (symOf r) (causeNow r i) with hcarried | hwritten
  · have hframe : (stepRegs p r i).frame = r.frame := (congrArg Regs.frame (hcarried r.frame) :)
    exact ⟨g, hframe ▸ h, hedge.trans (hcarried g)⟩
  · exact ⟨(stepRegs p r i).frame, fun _ _ _ => rfl, hedge.trans (hwritten g)⟩

end

theorem exists_clock_withFrame {s : State} {g : Frame} (h : SameOffMarkers s.regs.frame g) :
    ∃ g', SameOffMarkers s.clock.regs.frame g' ∧ (s.withFrame g).clock = s.clock.withFrame g' := by
  obtain ⟨g', hsame, hregs⟩ := exists_stepRegs_withFrame h s.params s.ports
  have hclock : (s.withFrame g).clock = { s.clock with regs := stepRegs s.params (s.regs.withFrame g) s.ports } := rfl
  exact ⟨g', hsame, by rw [hclock, hregs]; rfl⟩

/-- So the two runs stay alike, at every later cycle. -/
theorem exists_run_withFrame {s : State} {g : Frame} (hq : s.queue = []) (h : SameOffMarkers s.regs.frame g) (k : Nat) :
    ∃ t g', Sys2Proof.core.run k s = .next t ∧ Sys2Proof.core.run k (s.withFrame g) = .next (t.withFrame g') ∧
      SameOffMarkers t.regs.frame g' := by
  induction k generalizing s g with
  | zero => exact ⟨s, g, rfl, rfl, h⟩
  | succ k ih =>
    obtain ⟨g₁, hsame, hclock⟩ := exists_clock_withFrame h
    rw [run_succ_of_step (step_of_queue_nil hq),
      run_succ_of_step (step_of_queue_nil (s := s.withFrame g) hq), hclock]
    exact ih hq hsame

end Sys2Proof.Machine

namespace Sys2Proof.Proofs

open Sys2Proof.Machine Sys2Proof.Safety

/-- Settles O17: the two runs differ in marker slots at most, and the line does not depend on the frame register. -/
theorem markerBitsNeverReachTheLine : Obligations.MarkerBitsNeverReachTheLine := by
  unfold Obligations.MarkerBitsNeverReachTheLine
  intro k s g hq h
  obtain ⟨t, g', hrun, hrun', hsame⟩ := exists_run_withFrame hq h k
  exact ⟨t, g', hrun, hrun', hsame, rfl⟩

end Sys2Proof.Proofs

namespace Sys2Proof.Machine

open Sys2Proof.Safety

/-! ### A run of the block by itself, cycle by cycle -/

section
variable {s : State}

theorem run_eq_iterate_clock (hq : s.queue = []) (k : Nat) :
    Sys2Proof.core.run k s = .next (State.clock^[k] s) := by
  induction k generalizing s with
  | zero => rfl
  | succ k ih => exact (run_succ_of_step (step_of_queue_nil hq) k).trans (ih hq)

theorem after_of_iterate_clock {k : Nat} {P : Regs → Prop} (hq : s.queue = []) (h : P (State.clock^[k] s).regs) :
    After k s P :=
  ⟨_, run_eq_iterate_clock hq k, h⟩

@[simp] theorem iterate_clock_params (s : State) (k : Nat) : (State.clock^[k] s).params = s.params := by
  induction k generalizing s with
  | zero => rfl
  | succ k ih => exact ih s.clock

@[simp] theorem iterate_clock_ports (s : State) (k : Nat) : (State.clock^[k] s).ports = inputOf s k := by
  induction k generalizing s with
  | zero => rfl
  | succ k ih => exact ih s.clock

end

/-! ### A bit, cycle by cycle (R115) -/

theorem out_sinkOp_of_phase {r : Regs} (hs : r.st = .high ∨ r.st = .low) :
    (out r).sinkOp = if r.cyc = 0 then 0b10#2 else 0b00#2 := by
  have hop : sinkOpOf r = if r.cyc = 0 then .set else .none := by rcases hs with hs | hs <;> simp [sinkOpOf, hs]
  rw [out, hop, apply_ite SinkOp.code]
  rfl

/-- Cycle `c` of bit `k` of the frame `f`, with no cancellation pending: the high phase first, then the low one. -/
structure AtBitCycle (p : Params) (f : Frame) (k c : Nat) (r : Regs) : Prop where
  frame_eq  : r.frame = f
  bitIdx_eq : r.bitIdx.toNat = k
  cancel_eq : r.cancel = false
  phase     : (r.st = .high ∧ r.cyc = c ∧ c < hiLen p (sym f k)) ∨ (r.st = .low ∧ r.cyc + hiLen p (sym f k) = c)

section
variable {f : Frame} {k c : Nat}

theorem AtBitCycle.symOf_eq {p : Params} {r : Regs} (h : AtBitCycle p f k c r) : symOf r = sym f k := by
  rw [symOf, h.frame_eq, h.bitIdx_eq]

theorem AtBitCycle.line {p : Params} {r : Regs} (h : AtBitCycle p f k c r) :
    (out r).line = decide (c < hiLen p (sym f k)) := by
  rcases h.phase with ⟨hs, -, hlt⟩ | ⟨hs, hc⟩
  · simp [out, lineOf, hs, hlt]
  · have hge : hiLen p (sym f k) ≤ c := by omega
    simp [out, lineOf, hs, hge]

/-- `SET` stands in the first cycle of each phase (R108). -/
theorem AtBitCycle.sinkOp {p : Params} {r : Regs} (h : AtBitCycle p f k c r) :
    (out r).sinkOp = if c = 0 ∨ c = hiLen p (sym f k) then 0b10#2 else 0b00#2 := by
  have hpos := hiLen_pos p (sym f k)
  have hphase : r.st = .high ∨ r.st = .low := h.phase.imp And.left And.left
  have hfirst : r.cyc = 0 ↔ c = 0 ∨ c = hiLen p (sym f k) := by
    rcases h.phase with ⟨-, hc, hlt⟩ | ⟨-, hc⟩ <;> omega
  simp only [out_sinkOp_of_phase hphase, hfirst]

/-- A frame begins with the first cycle of bit 0. -/
theorem atBitCycle_of_frame_start (p : Params) {r : Regs} (hs : r.st = .high) (hb : r.bitIdx = 0#6) (hc : r.cyc = 0)
    (hq : r.cancel = false) : AtBitCycle p r.frame 0 0 r :=
  ⟨rfl, by simp [hb], hq, .inl ⟨hs, hc, hiLen_pos ..⟩⟩

/-- With no failure in the first cycle of a phase, none is read in the bit (R143). -/
theorem AtBitCycle.not_faultRead {s : State} (h : AtBitCycle s.params f k c s.regs)
    (hfault : c = 0 ∨ c = hiLen s.params (sym f k) → s.ports.sinkFault = false) : ¬ FaultRead s := by
  rintro ⟨hf, hread⟩
  have hfirst : ¬ (c = 0 ∨ c = hiLen s.params (sym f k)) := fun hc => by simp [hfault hc] at hf
  rcases h.phase with ⟨hs, hc, -⟩ | ⟨hs, hc⟩
  · have hcyc : s.regs.cyc = 0 := by simpa [hs] using hread
    omega
  · have hcyc : s.regs.cyc = 0 := by simpa [hs] using hread
    omega

variable {s : State} (h : AtBitCycle s.params f k c s.regs)
include h

theorem AtBitCycle.cancelReq_eq (hstop : s.ports.stop = false) : cancelReq s.regs s.ports = false := by
  rw [cancelReq, h.cancel_eq, hstop]; rfl

/-- The last cycle of a bit is the bit boundary (R113), and reads no answer. -/
theorem AtBitCycle.clock_regs_of_last (hr : s.ports.rst = false) (hc : c + 1 = 10 * s.params.tickDiv) :
    s.clock.regs = bitBoundary s.regs s.ports := by
  have hsum := hiLen_add_loLen s.params (sym f k)
  have hlo := loLen_pos s.params (sym f k)
  rcases h.phase with ⟨-, -, hlt⟩ | ⟨hs, hcyc⟩
  · omega
  · have hlast : s.regs.cyc = loLen s.params (symOf s.regs) - 1 := by rw [h.symOf_eq]; omega
    exact (clock_regs_low hr (not_faultRead_of_last_low hs hlast) hs).trans (lowRule_of_last hlast)

variable (hr : s.ports.rst = false) (hstop : s.ports.stop = false)
include hr hstop

/-- Inside a bit the next cycle is the bit's next one: it counts, or the low phase starts (R110, R111, R112). -/
theorem AtBitCycle.next_cycle (hf : ¬ FaultRead s) (hc : c + 1 < 10 * s.params.tickDiv) :
    AtBitCycle s.params f k (c + 1) s.clock.regs := by
  have hsum := hiLen_add_loLen s.params (sym f k)
  have hreq := h.cancelReq_eq hstop
  rcases h.phase with ⟨hs, hcyc, hlt⟩ | ⟨hs, hcyc⟩
  · rw [clock_regs_high hr hf hs, h.symOf_eq]
    by_cases hlast : s.regs.cyc = hiLen s.params (sym f k) - 1
    · rw [highRule_of_last hlast]
      exact ⟨h.frame_eq, h.bitIdx_eq, hreq, .inr ⟨rfl, by dsimp only; omega⟩⟩
    · rw [highRule_of_ne_last hlast]
      exact ⟨h.frame_eq, h.bitIdx_eq, hreq, .inl ⟨hs, by dsimp only; omega, by omega⟩⟩
  · have hne : s.regs.cyc ≠ loLen s.params (sym f k) - 1 := by omega
    rw [clock_regs_low hr hf hs, h.symOf_eq, lowRule_of_ne_last hne]
    exact ⟨h.frame_eq, h.bitIdx_eq, hreq, .inr ⟨hs, by dsimp only; omega⟩⟩

/-- After any bit but bit 59 the next bit of the frame begins. -/
theorem AtBitCycle.next_bit (hk : k < 59) (hc : c + 1 = 10 * s.params.tickDiv) :
    AtBitCycle s.params f (k + 1) 0 s.clock.regs := by
  have hbit := h.bitIdx_eq
  have hne : s.regs.bitIdx ≠ 59#6 := by bv_omega
  have hnext : (s.regs.bitIdx + 1#6).toNat = k + 1 := by bv_omega
  rw [h.clock_regs_of_last hr hc, bitBoundary_of_ne_last_bit (h.cancelReq_eq hstop) hne]
  exact ⟨h.frame_eq, hnext, rfl, .inl ⟨rfl, rfl, hiLen_pos ..⟩⟩

/-- After bit 59 the next frame begins with no gap (R127). -/
theorem AtBitCycle.next_frame (hk : k = 59) (hc : c + 1 = 10 * s.params.tickDiv) :
    s.clock.regs = { s.regs with cancel := false, done := true }.beginFrame s.ports := by
  have hlast : s.regs.bitIdx = 59#6 := BitVec.eq_of_toNat_eq (h.bitIdx_eq.trans hk)
  rw [h.clock_regs_of_last hr hc, bitBoundary_of_last_bit (h.cancelReq_eq hstop) hlast]

end

/-! ### A frame, cycle by cycle (R114, R115) -/

/-- One cycle more is in the same bit, or is the first of the next. -/
theorem succ_div_mod {n : Nat} (hn : 0 < n) (k : Nat) :
    (k % n + 1 < n ∧ (k + 1) / n = k / n ∧ (k + 1) % n = k % n + 1) ∨
    (k % n + 1 = n ∧ (k + 1) / n = k / n + 1 ∧ (k + 1) % n = 0) := by
  have hk := Nat.mod_add_div k n
  have hlt := Nat.mod_lt k hn
  by_cases hlast : k % n + 1 = n
  · exact .inr ⟨hlast, (Nat.div_mod_unique hn).mpr ⟨by rw [Nat.mul_succ]; omega, hn⟩⟩
  · exact .inl ⟨by omega, (Nat.div_mod_unique hn).mpr ⟨by omega, by omega⟩⟩

/-- For a whole frame from the present cycle: no reset, no stop, and no failing answer in the first cycle of a phase. -/
def QuietFrame (s : State) : Prop :=
  ∀ k, k < 600 * s.params.tickDiv →
    (inputOf s k).rst = false ∧ (inputOf s k).stop = false ∧
    (k % (10 * s.params.tickDiv) = 0 ∨
      k % (10 * s.params.tickDiv) = hiLen s.params (sym s.regs.frame (k / (10 * s.params.tickDiv))) →
        (inputOf s k).sinkFault = false)

/-- Cycle `k` of a quiet frame is cycle `k mod (10 * TICK_DIV)` of bit `k div (10 * TICK_DIV)`. -/
theorem atBitCycle_iterate_clock {s : State} (hstart : AtBitCycle s.params s.regs.frame 0 0 s.regs)
    (hquiet : QuietFrame s) {k : Nat} (hk : k < 600 * s.params.tickDiv) :
    AtBitCycle s.params s.regs.frame (k / (10 * s.params.tickDiv)) (k % (10 * s.params.tickDiv))
      (State.clock^[k] s).regs := by
  induction k with
  | zero => simpa using hstart
  | succ k ih =>
    have hk' : k < 600 * s.params.tickDiv := by omega
    obtain ⟨hr, hstop, hfault⟩ := hquiet k hk'
    have hbit : (k + 1) / (10 * s.params.tickDiv) < 60 := Nat.div_lt_of_lt_mul (by omega)
    have hpos : 0 < 10 * s.params.tickDiv := Nat.mul_pos (by decide) (tickDiv_pos s.params)
    have hat := ih hk'
    rw [← iterate_clock_ports] at hr hstop hfault
    rw [← iterate_clock_params s k] at hat hfault hbit hpos ⊢
    rw [Function.iterate_succ_apply']
    rcases succ_div_mod hpos k with ⟨hin, hdiv, hmod⟩ | ⟨hlast, hdiv, hmod⟩
    · rw [hdiv, hmod]
      exact hat.next_cycle hr hstop (hat.not_faultRead hfault) hin
    · rw [hdiv, hmod]
      exact hat.next_bit hr hstop (by omega) hlast

/-- The last cycle of a quiet frame ends with the `begin_frame` edge of the next (R113, R125). -/
theorem iterate_clock_regs_of_quietFrame {s : State} (hstart : AtBitCycle s.params s.regs.frame 0 0 s.regs)
    (hquiet : QuietFrame s) : ∃ r : Regs, r.done = true ∧
      (State.clock^[600 * s.params.tickDiv] s).regs = r.beginFrame (inputOf s (600 * s.params.tickDiv - 1)) := by
  obtain ⟨k, hk⟩ : ∃ k, 600 * s.params.tickDiv = k + 1 :=
    Nat.exists_eq_add_one.mpr (Nat.mul_pos (by decide) (tickDiv_pos s.params))
  have hlt : k < 600 * s.params.tickDiv := by omega
  obtain ⟨hr, hstop, -⟩ := hquiet k hlt
  have hat := atBitCycle_iterate_clock hstart hquiet hlt
  obtain ⟨hdiv, hmod⟩ : k / (10 * s.params.tickDiv) = 59 ∧
      k % (10 * s.params.tickDiv) = 10 * s.params.tickDiv - 1 :=
    (Nat.div_mod_unique (by omega)).mpr ⟨by omega, by omega⟩
  rw [hdiv, hmod] at hat
  rw [← iterate_clock_ports] at hr hstop
  rw [← iterate_clock_params s k] at hat
  refine ⟨{ (State.clock^[k] s).regs with cancel := false, done := true }, rfl, ?_⟩
  rw [hk, Nat.add_sub_cancel, Function.iterate_succ_apply', ← iterate_clock_ports]
  exact hat.next_frame hr hstop rfl (by rw [iterate_clock_params]; omega)

end Sys2Proof.Machine

namespace Sys2Proof.Proofs

open Sys2Proof.Machine Sys2Proof.Safety

/-- Settles O52: every cycle of the frame is the cycle of a bit, and the last one ends with `begin_frame`. -/
theorem waveformOfAFrame : Obligations.WaveformOfAFrame := by
  unfold Obligations.WaveformOfAFrame
  intro s hqueue hs hb hc hcancel hquiet
  have hat {k : Nat} := atBitCycle_iterate_clock (k := k) (atBitCycle_of_frame_start s.params hs hb hc hcancel) hquiet
  refine ⟨fun k hk => after_of_iterate_clock hqueue ?_, after_of_iterate_clock hqueue ?_⟩
  · have h := hat hk
    exact ⟨h.line, h.sinkOp, h.bitIdx_eq, h.frame_eq⟩
  · obtain ⟨r, hdone, hnext⟩ := iterate_clock_regs_of_quietFrame
      (atBitCycle_of_frame_start s.params hs hb hc hcancel) hquiet
    rw [hnext]
    exact ⟨rfl, hdone, rfl⟩

end Sys2Proof.Proofs

/-! ## The control loop (44): O53, O38, O39, O43, O27, O28, O30, O31, O37 -/

namespace Sys2Proof.Machine

open Sys2Proof.Safety

/-! ### The cancellation request, rule by rule (R128) -/

@[simp] theorem configRule_cancel (r : Regs) (i : Inputs) : (configRule r i).cancel = cancelReq r i := by
  unfold configRule
  split
  case isTrue h => exact h.symm
  case isFalse h => exact (Bool.eq_false_of_not_eq_true h).symm

@[simp] theorem highRule_cancel (p : Params) (r : Regs) (i : Inputs) (y : Symbol) :
    (highRule p r i y).cancel = cancelReq r i := by
  unfold highRule; split <;> rfl

@[simp] theorem bitBoundary_cancel (r : Regs) (i : Inputs) : (bitBoundary r i).cancel = cancelReq r i := by
  unfold bitBoundary
  split
  · rfl
  · split <;> rfl

@[simp] theorem lowRule_cancel (p : Params) (r : Regs) (i : Inputs) (y : Symbol) :
    (lowRule p r i y).cancel = cancelReq r i := by
  unfold lowRule
  split
  · exact bitBoundary_cancel r i
  · rfl

@[simp] theorem leaveAbort_cancel (p : Params) (r : Regs) (i : Inputs) : (leaveAbort p r i).cancel = cancelReq r i := by
  unfold leaveAbort; split <;> rfl

/-- A running cycle latches the request, whatever else happens in it. -/
theorem stepRegs_cancel_of_running (p : Params) {r : Regs} {i : Inputs} (hr : i.rst = false)
    (hs : r.st ∈ [.config, .high, .low, .abort]) : (stepRegs p r i).cancel = cancelReq r i := by
  cases hst : r.st with
  | idle => simp [hst] at hs
  | config => rw [stepRegs_config hr hst]; split <;> simp
  | high => rw [stepRegs_high hr hst]; split <;> simp
  | low => rw [stepRegs_low hr hst]; split <;> simp
  | abort => simp [stepRegs_abort hr hst]
  | rel => simp [hst] at hs

/-! ### A bit with a cancellation in it (R129, R132)

Up to the bit boundary a cancellation changes the register `cancel` alone, so the cycles of the bit are those of
`AtBitCycle` with the cancellation withdrawn. -/

/-- The registers with no cancellation pending. -/
def Regs.uncancelled (r : Regs) : Regs := { r with cancel := false }

/-- The state with the cancellation withdrawn, the pending one and the one on the ports. -/
def State.uncancelled (s : State) : State :=
  { s with regs := s.regs.uncancelled, ports := { s.ports with stop := false } }

/-- A cycle of a bit before the last does the same with the cancellation and without it, `cancel` apart. -/
theorem clock_uncancelled_regs {s : State} (hr : s.ports.rst = false) (hf : ¬ FaultRead s)
    (hs : s.regs.st = .high ∨ s.regs.st = .low)
    (hbefore : ¬ (s.regs.st = .low ∧ s.regs.cyc = loLen s.params (symOf s.regs) - 1)) :
    s.uncancelled.clock.regs = s.clock.regs.uncancelled := by
  rcases hs with hs | hs
  · rw [clock_regs_high hr hf hs, clock_regs_high (s := s.uncancelled) hr hf hs]
    by_cases hc : s.regs.cyc = hiLen s.params (symOf s.regs) - 1
    · rw [highRule_of_last hc]
      exact highRule_of_last hc
    · rw [highRule_of_ne_last hc]
      exact highRule_of_ne_last hc
  · have hc : s.regs.cyc ≠ loLen s.params (symOf s.regs) - 1 := fun hc => hbefore ⟨hs, hc⟩
    rw [clock_regs_low hr hf hs, clock_regs_low (s := s.uncancelled) hr hf hs, lowRule_of_ne_last hc]
    exact lowRule_of_ne_last hc

/-- The last cycle of a bit is that of its low phase. -/
theorem AtBitCycle.last_low_iff {p : Params} {f : Frame} {k c : Nat} {r : Regs} (h : AtBitCycle p f k c r) :
    (r.st = .low ∧ r.cyc = loLen p (symOf r) - 1) ↔ c + 1 = 10 * p.tickDiv := by
  have hsum := hiLen_add_loLen p (sym f k)
  have hlo := loLen_pos p (sym f k)
  rw [h.symOf_eq]
  rcases h.phase with ⟨hs, -, hlt⟩ | ⟨hs, hcyc⟩
  · simp only [hs, reduceCtorEq, false_and, false_iff]
    omega
  · simp only [hs, true_and]
    omega

/-- Cycle `c` of bit `b` of the frame `f`, with a cancellation pending or requested. -/
structure CancelledAtBitCycle (f : Frame) (b c : Nat) (s : State) : Prop where
  bitCycle  : AtBitCycle s.params f b c s.regs.uncancelled
  requested : cancelReq s.regs s.ports = true

section
variable {f : Frame} {b c : Nat} {s : State} (h : CancelledAtBitCycle f b c s)
include h

theorem CancelledAtBitCycle.line_low (hc : hiLen s.params (sym f b) ≤ c) : (out s.regs).line = false :=
  h.bitCycle.line.trans (decide_eq_false (Nat.not_lt.mpr hc))

variable (hr : s.ports.rst = false)
include hr

/-- Inside the bit the request is latched and the bit goes on. -/
theorem CancelledAtBitCycle.next_cycle
    (hfault : c = 0 ∨ c = hiLen s.params (sym f b) → s.ports.sinkFault = false)
    (hc : c + 1 < 10 * s.params.tickDiv) :
    CancelledAtBitCycle f b (c + 1) s.clock := by
  have hphase : s.regs.st = .high ∨ s.regs.st = .low := h.bitCycle.phase.imp And.left And.left
  have hrunning : s.regs.st ∈ [.config, .high, .low, .abort] := by rcases hphase with hs | hs <;> simp [hs]
  have hcancel : s.clock.regs.cancel = true := (stepRegs_cancel_of_running s.params hr hrunning).trans h.requested
  have hf : ¬ FaultRead s.uncancelled := AtBitCycle.not_faultRead h.bitCycle hfault
  have hbefore : ¬ (s.regs.st = .low ∧ s.regs.cyc = loLen s.params (symOf s.regs) - 1) :=
    fun hlast => hc.ne (h.bitCycle.last_low_iff.mp hlast)
  have hnext : AtBitCycle s.params f b (c + 1) s.uncancelled.clock.regs :=
    AtBitCycle.next_cycle (s := s.uncancelled) h.bitCycle hr rfl hf hc
  rw [clock_uncancelled_regs hr hf hphase hbefore] at hnext
  exact ⟨hnext, by rw [cancelReq, hcancel, Bool.true_or]⟩

/-- The bit boundary honours the request (R113). -/
theorem CancelledAtBitCycle.clock_regs_of_last (hc : c + 1 = 10 * s.params.tickDiv) :
    s.clock.regs = { s.regs with st := .rel, cyc := 0, cancel := true, done := doneAtBoundary s.regs } := by
  obtain ⟨hs, hlast⟩ : s.regs.st = .low ∧ s.regs.cyc = loLen s.params (symOf s.regs) - 1 :=
    h.bitCycle.last_low_iff.mpr hc
  rw [clock_regs_low hr (not_faultRead_of_last_low hs hlast) hs, lowRule_of_last hlast,
    bitBoundary_of_cancelReq h.requested]

end

section
variable {f : Frame} {b c : Nat} {s : State} (h : CancelledAtBitCycle f b c s)
  (hr : ∀ k, k < 10 * s.params.tickDiv → (inputOf s k).rst = false)
  (hfault : ∀ k, c + k = 0 ∨ c + k = hiLen s.params (sym f b) → (inputOf s k).sinkFault = false)
include h hr hfault

theorem CancelledAtBitCycle.iterate_clock {k : Nat} (hk : c + k < 10 * s.params.tickDiv) :
    CancelledAtBitCycle f b (c + k) (State.clock^[k] s) := by
  induction k with
  | zero => exact h
  | succ k ih =>
    have hrst := hr k (by omega)
    have hanswer := hfault k
    rw [← iterate_clock_ports] at hrst hanswer
    rw [Function.iterate_succ_apply']
    exact (ih (by omega)).next_cycle hrst (by rwa [iterate_clock_params]) (by rwa [iterate_clock_params])

/-- After the rest of the bit the handle is released (R113). -/
theorem CancelledAtBitCycle.iterate_clock_of_rest {n : Nat} (hc : c < 10 * s.params.tickDiv)
    (hn : c + n = 10 * s.params.tickDiv) :
    (State.clock^[n] s).regs.st = .rel ∧ (State.clock^[n] s).regs.bitIdx.toNat = b ∧
      (State.clock^[n] s).regs.cancel = true := by
  obtain ⟨k, rfl⟩ : ∃ k, n = k + 1 := Nat.exists_eq_add_one.mpr (by omega)
  have hlast := h.iterate_clock hr hfault (k := k) (by omega)
  have hrst := hr k (by omega)
  rw [← iterate_clock_ports] at hrst
  rw [Function.iterate_succ_apply', hlast.clock_regs_of_last hrst (by rwa [iterate_clock_params])]
  exact ⟨rfl, hlast.bitCycle.bitIdx_eq, rfl⟩

/-- From the low phase on the line is low, in `REL` too. -/
theorem CancelledAtBitCycle.line_low_iterate_clock {k : Nat} (hc : c < 10 * s.params.tickDiv)
    (hlow : hiLen s.params (sym f b) ≤ c + k) (hk : c + k ≤ 10 * s.params.tickDiv) :
    (out (State.clock^[k] s).regs).line = false := by
  rcases hk.lt_or_eq with hlt | heq
  · exact (h.iterate_clock hr hfault hlt).line_low (by rwa [iterate_clock_params])
  · obtain ⟨hrel, -⟩ := h.iterate_clock_of_rest hr hfault hc heq
    simp [out, lineOf, hrel]

/-- The two facts above as a run of the block by itself. -/
theorem CancelledAtBitCycle.after_rest {n : Nat} (hqueue : s.queue = []) (hc : c < 10 * s.params.tickDiv)
    (hn : c + n = 10 * s.params.tickDiv) :
    (After n s fun r => r.st = .rel ∧ r.bitIdx = s.regs.bitIdx ∧ r.cancel = true) ∧
      ∀ k, hiLen s.params (sym f b) ≤ c + k → k ≤ n → After k s fun r => (out r).line = false := by
  obtain ⟨hrel, hbit, hpending⟩ := h.iterate_clock_of_rest hr hfault hc hn
  have hbitIdx := BitVec.eq_of_toNat_eq (hbit.trans h.bitCycle.bitIdx_eq.symm)
  exact ⟨after_of_iterate_clock hqueue ⟨hrel, hbitIdx, hpending⟩, fun k hlow hk =>
    after_of_iterate_clock hqueue (h.line_low_iterate_clock hr hfault hc hlow (by omega))⟩

end

/-- A state in a phase, with a cancellation, is in a cycle of its bit. -/
theorem cancelledAtBitCycle_high {s : State} (hs : s.regs.st = .high)
    (hcyc : s.regs.cyc < hiLen s.params (symOf s.regs))
    (hreq : cancelReq s.regs s.ports = true) :
    CancelledAtBitCycle s.regs.frame s.regs.bitIdx.toNat s.regs.cyc s :=
  ⟨⟨rfl, rfl, rfl, .inl ⟨hs, rfl, hcyc⟩⟩, hreq⟩

theorem cancelledAtBitCycle_low {s : State} (hs : s.regs.st = .low) (hreq : cancelReq s.regs s.ports = true) :
    CancelledAtBitCycle s.regs.frame s.regs.bitIdx.toNat (s.regs.cyc + hiLen s.params (symOf s.regs)) s :=
  ⟨⟨rfl, rfl, rfl, .inr ⟨hs, rfl⟩⟩, hreq⟩

end Sys2Proof.Machine

namespace Sys2Proof.Proofs

open Sys2Proof.Machine Sys2Proof.Safety

/-- Settles O53: the bit with the cancellation in it goes on to its boundary, which honours it. -/
theorem cancellationWithinOneBit : Obligations.CancellationWithinOneBit := by
  unfold Obligations.CancellationWithinOneBit
  rintro s ⟨hqueue, hregs⟩ hcancel hr hfirst h l
  have hreq : cancelReq s.regs s.ports = true := by simpa [cancelReq] using hcancel
  have hsum : h + l = 10 * s.params.tickDiv := hiLen_add_loLen s.params (symOf s.regs)
  refine ⟨fun hs hanswer => ?high, fun hs => ?low⟩
  case high =>
    have hcyc : s.regs.cyc < h := hregs.cyc_high hs
    have hat := cancelledAtBitCycle_high hs hcyc hreq
    have hfault (k : Nat) (hk : s.regs.cyc + k = 0 ∨ s.regs.cyc + k = h) : (inputOf s k).sinkFault = false := by
      rcases hk with hk | hk
      · obtain ⟨hzero, rfl⟩ : s.regs.cyc = 0 ∧ k = 0 := by omega
        exact hfirst hzero
      · obtain rfl : k = h - s.regs.cyc := by omega
        exact hanswer
    obtain ⟨hrel, hline⟩ := hat.after_rest hr hfault hqueue (n := h - s.regs.cyc + l) (by omega) (by omega)
    exact ⟨by omega, hrel, fun k hlow hk => hline k (Nat.sub_le_iff_le_add'.mp hlow) hk⟩
  case low =>
    have hcyc : s.regs.cyc < l := hregs.cyc_low hs
    have hpos : 0 < h := hiLen_pos s.params (symOf s.regs)
    have hat := cancelledAtBitCycle_low hs hreq
    have hfault (k : Nat) (hk : s.regs.cyc + h + k = 0 ∨ s.regs.cyc + h + k = h) :
        (inputOf s k).sinkFault = false := by
      obtain ⟨hzero, rfl⟩ : s.regs.cyc = 0 ∧ k = 0 := by omega
      exact hfirst hzero
    obtain ⟨hrel, hline⟩ := hat.after_rest hr hfault hqueue (n := l - s.regs.cyc) (by omega) (by omega)
    exact ⟨by omega, hrel, fun k hk => hline k ((Nat.le_add_left ..).trans (Nat.le_add_right ..)) hk⟩

/-- Settles O38: each of the four states latches the request in every cycle. -/
theorem stopIsLatchedWhileRunning : Obligations.StopIsLatchedWhileRunning := by
  unfold Obligations.StopIsLatchedWhileRunning
  intro s hs hr hqueue
  exact ⟨s.clock, step_of_queue_nil hqueue, stepRegs_cancel_of_running s.params hr hs⟩

end Sys2Proof.Proofs

namespace Sys2Proof.Machine

open Sys2Proof.Safety

/-! ### The rules that choose, case by case (R121, R122, R124, R126, R150) -/

section
variable {p : Params} {r : Regs} {i : Inputs}

theorem idleRule_of_start (hstart : i.start = true) (hstop : i.stop = false) :
    idleRule r i = { r.clearError with st := .config, cancel := false, done := false } :=
  if_pos (by rw [hstart, hstop]; rfl)

theorem idleRule_of_no_start (h : ¬ (i.start = true ∧ i.stop = false)) :
    idleRule r i = { r with cancel := false, done := false } :=
  if_neg (by simpa using h)

theorem configRule_of_cancelReq (h : cancelReq r i = true) :
    configRule r i = { r with st := .rel, cancel := true, done := false } := if_pos h

theorem configRule_of_not_cancelReq (h : cancelReq r i = false) :
    configRule r i = { r with cancel := false, done := false }.beginFrame i := if_neg (by simp [h])

theorem leaveAbort_of_retry (hp : p.retryOnIoErr = true) (h : cancelReq r i = false) :
    leaveAbort p r i = { r with cancel := false, done := false }.beginFrame i := by
  simp [leaveAbort, hp, h]

theorem leaveAbort_of_release (h : ¬ (p.retryOnIoErr = true ∧ cancelReq r i = false)) :
    leaveAbort p r i = { r with st := .rel, cancel := cancelReq r i, done := false } :=
  if_neg (by simpa using h)

end

theorem clock_regs_config {s : State} (hr : s.ports.rst = false) (hs : s.regs.st = .config)
    (hf : s.ports.sinkFault = false) : s.clock.regs = configRule s.regs s.ports :=
  (stepRegs_config hr hs).trans (if_neg (by simp [hf]))

/-- With no handle there is no level on the line (R29). -/
theorem out_without_handle {r : Regs} (hs : r.st = .idle ∨ r.st = .rel) :
    (out r).lineOe = false ∧ (out r).line = false := by
  rcases hs with hs | hs <;> simp [out, lineOeOf, lineOf, hs]

/-! ### `start_i` outside `IDLE` (R134) -/

/-- No rule but that of `IDLE` reads `start_i`. -/
theorem stepRegs_withStart (p : Params) {r : Regs} (i : Inputs) (hs : r.st ≠ .idle) (b : Bool) :
    stepRegs p r { i with start := b } = stepRegs p r i := by
  obtain ⟨st, _⟩ := r
  cases st with
  | idle => exact absurd rfl hs
  | config | high | low | abort | rel => rfl

/-! ### The frame and the time inputs (R125) -/

/-- The inputs with other levels on the time inputs. -/
def Inputs.withSample (i : Inputs) (x : Sample) : Inputs :=
  { i with tsSec := x.sec, tsMin := x.min, tsHour := x.hour, tsDoy := x.doy }

/-- The state with other levels on the time inputs. -/
def State.withSample (s : State) (x : Sample) : State := { s with ports := s.ports.withSample x }

/-- With these inputs the rule leaves the frame as it is and does not read the time inputs. -/
def KeepsFrame (rule : Inputs → Regs) (r : Regs) (i : Inputs) : Prop :=
  (rule i).frame = r.frame ∧ ∀ x, rule (i.withSample x) = rule i

theorem KeepsFrame.of_eq {rule : Inputs → Regs} {r n : Regs} {i : Inputs} (h : rule i = n)
    (hother : ∀ x, rule (i.withSample x) = n) (hframe : n.frame = r.frame) : KeepsFrame rule r i :=
  ⟨(congrArg Regs.frame h).trans hframe, fun x => (hother x).trans h.symm⟩

/-- A rule that agrees, whatever the time inputs, with one that keeps the frame keeps it. -/
theorem KeepsFrame.of_agree {rule rule' : Inputs → Regs} {r : Regs} {i : Inputs} (h : KeepsFrame rule' r i)
    (hagree : ∀ x, rule (i.withSample x) = rule' (i.withSample x)) : KeepsFrame rule r i :=
  .of_eq (hagree i.sample) (fun x => (hagree x).trans (h.2 x)) h.1

section
variable (p : Params) (r : Regs) (i : Inputs) (y : Symbol)

theorem keepsFrame_idleRule : KeepsFrame (idleRule r) r i :=
  ⟨by unfold idleRule; split <;> rfl, fun _ => rfl⟩

theorem keepsFrame_highRule : KeepsFrame (highRule p r · y) r i :=
  ⟨by unfold highRule; split <;> rfl, fun _ => rfl⟩

variable {p r i y}

theorem keepsFrame_configRule (h : cancelReq r i = true) : KeepsFrame (configRule r) r i :=
  .of_eq (configRule_of_cancelReq h) (fun _ => configRule_of_cancelReq h) rfl

theorem keepsFrame_bitBoundary (h : ¬ (r.bitIdx = 59#6 ∧ cancelReq r i = false)) : KeepsFrame (bitBoundary r) r i := by
  cases hreq : cancelReq r i with
  | true => exact .of_eq (bitBoundary_of_cancelReq hreq) (fun _ => bitBoundary_of_cancelReq hreq) rfl
  | false =>
    have hbit : r.bitIdx ≠ 59#6 := fun hbit => h ⟨hbit, hreq⟩
    exact .of_eq (bitBoundary_of_ne_last_bit hreq hbit) (fun _ => bitBoundary_of_ne_last_bit hreq hbit) rfl

theorem keepsFrame_lowRule (h : ¬ (r.cyc = loLen p y - 1 ∧ r.bitIdx = 59#6 ∧ cancelReq r i = false)) :
    KeepsFrame (lowRule p r · y) r i := by
  by_cases hc : r.cyc = loLen p y - 1
  · exact (keepsFrame_bitBoundary fun hlast => h ⟨hc, hlast⟩).of_agree fun _ => lowRule_of_last hc
  · exact .of_eq (lowRule_of_ne_last hc) (fun _ => lowRule_of_ne_last hc) rfl

theorem keepsFrame_leaveAbort (h : ¬ (p.retryOnIoErr = true ∧ cancelReq r i = false)) :
    KeepsFrame (leaveAbort p r) r i :=
  .of_eq (leaveAbort_of_release h) (fun _ => leaveAbort_of_release h) rfl

end

/-- Outside the three places a cycle keeps the frame: a failing answer that is read begins none, and else the rule of
the state keeps it. -/
theorem keepsFrame_stepRegs {s : State} (hr : s.ports.rst = false) (hb : ¬ BeginsFrame s) :
    KeepsFrame (stepRegs s.params s.regs) s.regs s.ports := by
  by_cases hf : FaultRead s
  · exact .of_eq (stepRegs_of_faultRead hr hf) (fun x => stepRegs_of_faultRead (s := s.withSample x) hr hf)
      (by split <;> rfl)
  · cases hs : s.regs.st with
    | idle => exact (keepsFrame_idleRule ..).of_agree fun _ => stepRegs_idle hr hs
    | config =>
      have hanswer : s.ports.sinkFault = false := Bool.eq_false_of_not_eq_true fun hfault => hf ⟨hfault, .inl hs⟩
      have hreq : cancelReq s.regs s.ports = true :=
        Bool.eq_true_of_not_eq_false fun hreq => hb (.inl ⟨hs, hanswer, hreq⟩)
      exact (keepsFrame_configRule hreq).of_agree fun x => clock_regs_config (s := s.withSample x) hr hs hanswer
    | high =>
      exact (keepsFrame_highRule _ _ _ (symOf s.regs)).of_agree
        fun x => clock_regs_high (s := s.withSample x) hr hf hs
    | low =>
      exact (keepsFrame_lowRule fun hlast => hb (.inr (.inl ⟨hs, hlast⟩))).of_agree
        fun x => clock_regs_low (s := s.withSample x) hr hf hs
    | abort =>
      exact (keepsFrame_leaveAbort fun hretry => hb (.inr (.inr ⟨hs, hretry⟩))).of_agree fun _ => stepRegs_abort hr hs
    | rel => exact .of_eq (stepRegs_rel hr hs) (fun _ => stepRegs_rel hr hs) rfl

/-- A cycle in one of the three places ends with the `begin_frame` edge. -/
theorem exists_clock_regs_eq_beginFrame {s : State} (hr : s.ports.rst = false) (hb : BeginsFrame s) :
    ∃ r : Regs, s.clock.regs = r.beginFrame s.ports := by
  rcases hb with ⟨hs, hf, hreq⟩ | ⟨hs, hc, hbit, hreq⟩ | ⟨hs, hp, hreq⟩
  · exact ⟨_, (clock_regs_config hr hs hf).trans (configRule_of_not_cancelReq hreq)⟩
  · exact ⟨_, (clock_regs_low hr (not_faultRead_of_last_low hs hc) hs).trans
      ((lowRule_of_last hc).trans (bitBoundary_of_last_bit hreq hbit))⟩
  · exact ⟨_, (stepRegs_abort hr hs).trans (leaveAbort_of_retry hp hreq)⟩

end Sys2Proof.Machine

namespace Sys2Proof.Proofs

open Sys2Proof.Machine Sys2Proof.Safety

/-- Settles O39: with either level the step leaves the registers of the block's own cycle. -/
theorem startIsIgnoredWhileBusy : Obligations.StartIsIgnoredWhileBusy := by
  unfold Obligations.StartIsIgnoredWhileBusy
  intro s hs hqueue
  exact ⟨s.clock.regs, stepsTo_of_clock_regs hqueue (stepRegs_withStart s.params s.ports hs false),
    stepsTo_of_clock_regs hqueue (stepRegs_withStart s.params s.ports hs true)⟩

/-- Settles O43: the three places end with `begin_frame`, and every other cycle keeps the frame. -/
theorem frameIsWrittenOnlyByBeginFrame : Obligations.FrameIsWrittenOnlyByBeginFrame := by
  unfold Obligations.FrameIsWrittenOnlyByBeginFrame
  intro s hqueue hr
  refine ⟨s.clock, step_of_queue_nil hqueue, fun hb => ?begins, fun hb => ?keeps⟩
  case begins =>
    obtain ⟨r, hnext⟩ := exists_clock_regs_eq_beginFrame hr hb
    rw [hnext]
    exact ⟨rfl, rfl, rfl, rfl, rfl, rfl, rfl⟩
  case keeps =>
    obtain ⟨hframe, htimes⟩ := keepsFrame_stepRegs hr hb
    exact ⟨hframe, fun a b c d => stepsTo_of_clock_regs hqueue (htimes { sec := a, min := b, hour := c, doy := d })⟩

/-- Settles O27: the rule of `IDLE` with an accepted start. -/
theorem idleAcceptsAStart : Obligations.IdleAcceptsAStart := by
  unfold Obligations.IdleAcceptsAStart
  intro s hs hr hqueue hstart hstop
  exact stepsTo_of_clock_regs hqueue ((stepRegs_idle hr hs).trans (idleRule_of_start hstart hstop))

/-- Settles O28: the rule of `IDLE` without one. -/
theorem idleOtherwiseForgetsACancellation : Obligations.IdleOtherwiseForgetsACancellation := by
  unfold Obligations.IdleOtherwiseForgetsACancellation
  intro s hs hr hqueue hstart
  obtain ⟨hoe, hline⟩ := out_without_handle (.inl hs)
  exact ⟨stepsTo_of_clock_regs hqueue ((stepRegs_idle hr hs).trans (idleRule_of_no_start hstart)), hoe, hline,
    by simp [out, sinkOpOf, SinkOp.code, hs]⟩

/-- Settles O30: the rule of `CONFIG` with a cancellation requested. -/
theorem configCancelledReleases : Obligations.ConfigCancelledReleases := by
  unfold Obligations.ConfigCancelledReleases
  intro s hs hr hqueue hf hcancel n
  have hreq : cancelReq s.regs s.ports = true := by simpa [cancelReq] using hcancel
  exact ⟨stepsTo_of_clock_regs hqueue ((clock_regs_config hr hs hf).trans (configRule_of_cancelReq hreq)),
    by simp [out, sinkOpOf, SinkOp.code, hs], rfl⟩

/-- Settles O31: the rule of `CONFIG` with none requested, which begins a frame. -/
theorem configBeginsTheFirstFrame : Obligations.ConfigBeginsTheFirstFrame := by
  unfold Obligations.ConfigBeginsTheFirstFrame
  intro s hs hr hqueue hf hcancel hstop
  have hreq : cancelReq s.regs s.ports = false := by rw [cancelReq, hcancel, hstop]; rfl
  exact stepsTo_of_clock_regs hqueue ((clock_regs_config hr hs hf).trans (configRule_of_not_cancelReq hreq))

/-- Settles O37: the rule of `REL`, which reads no input. -/
theorem releaseReturnsToIdle : Obligations.ReleaseReturnsToIdle := by
  unfold Obligations.ReleaseReturnsToIdle
  intro s hs hr hqueue
  obtain ⟨hoe, hline⟩ := out_without_handle (.inr hs)
  exact ⟨stepsTo_of_clock_regs hqueue (stepRegs_rel hr hs), by simp [out, sinkOpOf, SinkOp.code, hs], hoe, hline⟩

end Sys2Proof.Proofs

/-! ## The errors (60): O22, O23, O40, O29, O35, O36 -/

namespace Sys2Proof.Machine

open Sys2Proof.Safety

/-! ### A cycle that raises an error (R145, R146) -/

theorem cycleRaising_eq_nextCycle (s : State) (c : ErrCode) :
    s.cycleRaising c =
      nextCycle s (edge s.params s.regs s.ports (symOf s.regs) c) (callsAfter s.regs s.calls) := by
  rw [← logCall_eq_callsAfter]
  rfl

/-- No error raised is no failing answer read (log 10). -/
theorem edge_none_eq_listing (p : Params) (r : Regs) (i : Inputs) :
    edge p r i (symOf r) .none = listing p r { i with sinkFault := false } := by
  rw [← stepRegs_eq_listing, stepRegs, causeNow, causeOf_no_fault]
  exact (edge_sinkFault ..).symm

/-! ### The error code after a cycle (R141, R142) -/

/-- A cycle keeps the code or writes one that is not reserved: reset and an accepted start clear it, the two error entries
write theirs, and nothing else touches it. -/
theorem stepRegs_errCode_cases (s : State) :
    let c := (stepRegs s.params s.regs s.ports).errCode
    c = s.regs.errCode ∨ c = .none ∨ c = .ioConfig ∨ c = .transmit := by
  cases hr : s.ports.rst with
  | true =>
    rw [stepRegs_reset hr]
    exact .inr (.inl rfl)
  | false =>
    by_cases hf : FaultRead s
    · rw [stepRegs_of_faultRead hr hf]
      split <;> simp
    · have hstatus := stepRegs_errorStatus_of_not_faultRead hr hf
      simp only [Regs.errorStatus] at hstatus
      split at hstatus
      · exact .inr (.inl (congrArg (·.2.1) hstatus))
      · exact .inl (congrArg (·.2.1) hstatus)

/-! ### Where the sink's answer is read (R143) -/

/-- Outside the three kinds of cycle either answer raises no error. -/
theorem stepRegs_of_answer_not_read {s : State}
    (h : ¬ (s.regs.st = .config ∨ (s.regs.st = .high ∧ s.regs.cyc = 0) ∨ (s.regs.st = .low ∧ s.regs.cyc = 0)))
    (fault : Bool) :
    stepRegs s.params s.regs { s.ports with sinkFault := fault } =
      edge s.params s.regs s.ports (symOf s.regs) .none := by
  have hcause : causeNow s.regs { s.ports with sinkFault := fault } = .none :=
    causeNow_of_not_faultRead (s := { s with ports := { s.ports with sinkFault := fault } }) fun hf => h hf.2
  rw [stepRegs, hcause]
  exact edge_sinkFault ..

theorem out_sinkOp_config {r : Regs} (hs : r.st = .config) : (out r).sinkOp = 0b01#2 := by
  simp [out, sinkOpOf, SinkOp.code, hs]

/-- The operation that a failing answer refers to: `CONFIGURE` in `CONFIG`, `SET` in a phase. -/
theorem out_sinkOp_of_faultRead {s : State} (h : FaultRead s) :
    (out s.regs).sinkOp = if s.regs.st = .config then 0b01#2 else 0b10#2 := by
  obtain ⟨-, hs | ⟨hs, hc⟩ | ⟨hs, hc⟩⟩ := h
  · rw [if_pos hs, out_sinkOp_config hs]
  · rw [out_sinkOp_of_phase (.inl hs)]; simp [hs, hc]
  · rw [out_sinkOp_of_phase (.inr hs)]; simp [hs, hc]

end Sys2Proof.Machine

namespace Sys2Proof.Proofs

open Sys2Proof.Machine Sys2Proof.Safety

/-- Settles O22: each operation is the cycle that raises its error, and the edge of that cycle tests reset first. -/
theorem errorsAreRaised : Obligations.ErrorsAreRaised := by
  unfold Obligations.ErrorsAreRaised
  intro s
  refine ⟨?none, ?ioConfig, ?transmit⟩
  case none =>
    rw [← edge_none_eq_listing, ← cycleRaising_eq_nextCycle]
    rfl
  case ioConfig => exact congrArg Host.Outcome.next (cycleRaising_eq_nextCycle s .ioConfig)
  case transmit => exact congrArg Host.Outcome.next (cycleRaising_eq_nextCycle s .transmit)

/-- Settles O23: the two operations are refused, and a step is a cycle of the block. -/
theorem reservedErrorsAreNeverRaised : Obligations.ReservedErrorsAreNeverRaised := by
  unfold Obligations.ReservedErrorsAreNeverRaised
  intro s
  refine ⟨rfl, rfl, fun t hqueue hstep => ?_⟩
  rw [step_of_queue_nil hqueue] at hstep
  cases hstep
  exact stepRegs_errCode_cases s

/-- Settles O40: an answer that is not read raises nothing, whatever it is; a failing answer that is read is taken. -/
theorem faultIsReadOnlyWhereNamed : Obligations.FaultIsReadOnlyWhereNamed := by
  unfold Obligations.FaultIsReadOnlyWhereNamed
  intro s hqueue hr
  refine ⟨fun hread => ?ignored, fun hf => ?taken⟩
  case ignored =>
    exact ⟨_, stepsTo_of_clock_regs hqueue (stepRegs_of_answer_not_read hread false),
      stepsTo_of_clock_regs hqueue (stepRegs_of_answer_not_read hread true)⟩
  case taken =>
    refine ⟨s.clock, step_of_queue_nil hqueue, ?err, ?code, out_sinkOp_of_faultRead hf⟩
    case err =>
      rw [State.clock_regs, stepRegs_of_faultRead hr hf]
      split <;> rfl
    case code =>
      rw [State.clock_regs, stepRegs_of_faultRead hr hf]
      split <;> rfl

/-- Settles O29: `CONFIG` tests the answer before a cancellation. -/
theorem configureErrorIsTaken : Obligations.ConfigureErrorIsTaken := by
  unfold Obligations.ConfigureErrorIsTaken
  intro s hs hr hqueue hf n
  exact ⟨stepsTo_of_clock_regs hqueue ((stepRegs_config hr hs).trans (if_pos hf)), out_sinkOp_config hs, rfl⟩

/-- Settles O35: a failing answer read in a phase is the abort entry. -/
theorem abortEntryRecordsTheBit : Obligations.AbortEntryRecordsTheBit := by
  unfold Obligations.AbortEntryRecordsTheBit
  intro s hs hc hf hr hqueue
  have hread : FaultRead s := ⟨hf, .inr (hs.imp (⟨·, hc⟩) (⟨·, hc⟩))⟩
  have hphase : s.regs.st ≠ .config := by rcases hs with hs | hs <;> simp [hs]
  exact stepsTo_of_clock_regs hqueue ((stepRegs_of_faultRead hr hread).trans (if_neg hphase))

/-- Settles O36: the rule of `ABORT`, case by case. -/
theorem abortRetriesOrReleases : Obligations.AbortRetriesOrReleases := by
  unfold Obligations.AbortRetriesOrReleases
  intro s hs hr hqueue req
  have hrule := stepRegs_abort (p := s.params) hr hs
  exact ⟨fun ⟨hp, hreq⟩ => stepsTo_of_clock_regs hqueue (hrule.trans (leaveAbort_of_retry hp hreq)),
    fun hrelease => stepsTo_of_clock_regs hqueue (hrule.trans (leaveAbort_of_release hrelease))⟩

end Sys2Proof.Proofs

/-! ## Reset (70): O24, O25, O26, O46 -/

namespace Sys2Proof.Machine

open Sys2Proof.Safety

/-! ### A cycle with `rst_i = 1` (R156, R166) -/

/-- The block's own cycle tests reset first. -/
theorem clock_regs_reset {s : State} (hr : s.ports.rst = true) : s.clock.regs = Regs.reset := stepRegs_reset hr

/-- Every operation of the sequential layer but the two reserved ones ends a cycle with an edge, and whatever the operation puts
in its place, the level of `rst_i` that the edge tests is the cycle's own. -/
theorem exec_ends_at_edge {i : Instr} (hplace : isFunctional (encode i).place = false) (hencoding : i ≠ .errEncoding)
    (hinvariant : i ≠ .errInvariant) (s : State) :
    ∃ shown op r ports y c, exec i s = .next (s.endCycle shown op (edge s.params r ports y c)) ∧
      ports.rst = s.ports.rst := by
  cases i with
  | encode _ _ | build _ | render _ | sym _ _ | frame _ _ _ _ | fieldSec _ _ | fieldMin _ _ | fieldHour _ _
  | fieldDoy _ _ _ _ _
  | digit0 | digit1 | digit2 | digit3 | digit4 | digit5 | digit6 | digit7 | digit8 | digit9 => cases hplace
  | symMark _ | symOne | symZero | cmdNop | cmdStart | cmdStop _
  | sinkNone | sinkConfigure | sinkSet | sinkRelease
  | stIdle | stConfig | stHigh | stLow | stAbort | stRel
  | errNone | errIoConfig | errTransmit => exact ⟨_, _, _, _, _, _, rfl, rfl⟩
  | errEncoding => exact absurd rfl hencoding
  | errInvariant => exact absurd rfl hinvariant

/-! ### What reset shows (R167, R168) -/

/-- Every output of the reset registers is 0. -/
theorem out_reset :
    out Regs.reset =
      { line := false, lineOe := false, sinkOp := 0#2, busy := false, frame := 0#60, bitIdx := 0#6, frameStart := false,
        done := false, err := false, errCode := 0#3, errBit := 0#6 } := rfl

/-- Bit 0 of a built frame is 1 (R97), so the reset frame is none. -/
theorem buildSample_ne_zero (smp : Sample) : buildSample smp ≠ 0#60 := by
  intro h
  have hbit : (buildSample smp).getLsbD 0 = true := build_getLsbD_eq_frameTable _ _ _ _ (by decide)
  simp [h] at hbit

/-- `RELEASE` is shown in `REL` and nowhere else (R30). -/
theorem out_sinkOp_eq_release_iff (r : Regs) : (out r).sinkOp = 0b11#2 ↔ r.st = .rel := by
  cases hs : r.st with
  | idle | config | abort | rel => simp [out, sinkOpOf, SinkOp.code, hs]
  | high =>
    rw [out_sinkOp_of_phase (.inl hs)]
    split <;> simp
  | low =>
    rw [out_sinkOp_of_phase (.inr hs)]
    split <;> simp

end Sys2Proof.Machine

namespace Sys2Proof.Proofs

open Sys2Proof.Machine Sys2Proof.Safety

/-- Settles O24: a step with nothing queued is one edge of the block, which tests reset first. -/
theorem resetOverridesEverything : Obligations.ResetOverridesEverything := by
  unfold Obligations.ResetOverridesEverything
  intro s hqueue hr
  exact stepsTo_of_clock_regs hqueue (clock_regs_reset hr)

/-- Settles O25: each operation of the list ends with an edge that sees `rst_i = 1`. -/
theorem everyWordYieldsToReset : Obligations.EveryWordYieldsToReset := by
  unfold Obligations.EveryWordYieldsToReset
  intro i s hr hi
  have hlist : isFunctional (encode i).place = false ∧ i ≠ .errEncoding ∧ i ≠ .errInvariant := by
    revert i; decide
  obtain ⟨hplace, hencoding, hinvariant⟩ := hlist
  obtain ⟨shown, op, r, ports, y, c, hexec, hrst⟩ := exec_ends_at_edge hplace hencoding hinvariant s
  exact ⟨_, hexec, edge_reset (hrst.trans hr)⟩

/-- Settles O26: the outputs are those of the reset registers, and a built frame is not 0. -/
theorem resetStateShowsZeros : Obligations.ResetStateShowsZeros := by
  unfold Obligations.ResetStateShowsZeros
  exact ⟨out_reset, rfl, buildSample_ne_zero⟩

/-- Settles O46: the cycle of the reset is not in `REL`, and the next one is the reset state's. -/
theorem resetWhileRunningIssuesNoRelease : Obligations.ResetWhileRunningIssuesNoRelease := by
  unfold Obligations.ResetWhileRunningIssuesNoRelease
  intro s hqueue hr hs
  have hnow : (out s.regs).sinkOp ≠ 0b11#2 := by
    rw [Ne, out_sinkOp_eq_release_iff]
    intro hrel
    simp [hrel] at hs
  refine ⟨s.clock, step_of_queue_nil hqueue, ?_⟩
  rw [clock_regs_reset hr, out_reset]
  exact ⟨rfl, rfl, rfl, rfl, rfl, rfl, rfl, rfl, hnow, by decide⟩

end Sys2Proof.Proofs
